-- ==== Sys2Proof/Word.lean ====
section
/-! DEFINITION. The words of the engine: rule R4 (widths) and rule R5 (every value is an unsigned
integer of a stated width). -/

namespace Sys2Proof

/-- A state, block, working or response word: 32 bits, unsigned (R4, `WORD` and `RSP_BITS`). -/
abbrev Word := BitVec 32

/-- A message byte, a digest byte, an opcode or an index field: 8 bits (R4, R62). -/
abbrev Byte := BitVec 8

/-- The message byte counter and the bit length: 64 bits (R4, `LEN_BITS`; R118). -/
abbrev Len := BitVec 64

/-- A command word: 48 bits, a parallel value with no byte order (R4 `CMD_BITS`, R44, R61). -/
abbrev CmdWord := BitVec 48

end Sys2Proof
end

