-- ==== Sys2Proof/Config.lean ====
section
/-! DEFINITION. What an implementation fixes: the two OPEN timing parameters of rule R4 and nothing
else (R4, R183: "No rule of this spec and no result a command returns depends on either parameter").
The spec leaves no value of a result open, so there is no other free value. -/

namespace Sys2Proof

/-- FREE VALUE (assumption 12). How far `CYCLES_PER_COMPRESS` lies above its least value 1. -/
opaque Config.cyclesPerCompressLessOne : Nat

/-- FREE VALUE (assumption 12). How far `CYCLES_OTHER` lies above its least value 1. -/
opaque Config.cyclesOtherLessOne : Nat

/-- R4, `CYCLES_PER_COMPRESS`: "OPEN, any natural number of at least 1". -/
def Config.cyclesPerCompress : Nat := Config.cyclesPerCompressLessOne + 1

/-- R4, `CYCLES_OTHER`: "OPEN, at least 1". -/
def Config.cyclesOther : Nat := Config.cyclesOtherLessOne + 1

/-- R183: the clock cycles of an accepted command that contains `k` compressions. -/
def Config.cyclesOfCommand (k : Nat) : Nat :=
  Config.cyclesOther + k * Config.cyclesPerCompress

end Sys2Proof
end

