-- ==== Sys2Proof/Syntax.lean ====
section
/-! DEFINITION. The twelve commands of the CSHA1 command set, version 1: one constructor per row of
spec/opcode_table.json (R67), with the operands of the row's format (R63 to R66). -/

namespace Sys2Proof

/-- A command. An index operand is the 8-bit `idx` field as it stands (R69); its range (R70) is
checked by `Instr.wellFormed`. -/
inductive Instr where
  /-- `NOP` (R131), format Z, op 0x00. -/
  | nop
  /-- `INIT` (R112), format Z, op 0x01. -/
  | init
  /-- `PUTB imm8` (R114), format B, op 0x02. -/
  | putb (imm8 : Byte)
  /-- `FINAL` (R116), format Z, op 0x03. -/
  | final
  /-- `LDH i, imm32` (R103), format XW, op 0x04. -/
  | ldh (idx : Byte) (imm32 : Word)
  /-- `LDW i, imm32` (R104), format XW, op 0x05. -/
  | ldw (idx : Byte) (imm32 : Word)
  /-- `COMP` (R105), format Z, op 0x06. -/
  | comp
  /-- `RDH i` (R132), format X, op 0x07. -/
  | rdh (idx : Byte)
  /-- `RDW i` (R133), format X, op 0x08. -/
  | rdw (idx : Byte)
  /-- `RDB j` (R135), format X, op 0x09. -/
  | rdb (idx : Byte)
  /-- `RDL k` (R136), format X, op 0x0A. -/
  | rdl (idx : Byte)
  /-- `RDST` (R137), format Z, op 0x0B. -/
  | rdst
  deriving DecidableEq, Repr

end Sys2Proof
end

