-- ==== Sys2Proof/WellFormed.lean ====
section
/-! DEFINITION. Which terms of `Instr` are commands of the set: the index ranges of rule R70, one
check per indexed command. Every immediate value is legal (R69). -/

namespace Sys2Proof

/-- R70: "LDH, RDH: 0 to 4. LDW, RDW: 0 to 15. RDB: 0 to 19 (0x13). RDL: 0 to 1." -/
def Instr.wellFormed : Instr → Bool
  | .nop => true
  | .init => true
  | .putb _ => true
  | .final => true
  | .ldh idx _ => idx.toNat ≤ 4
  | .ldw idx _ => idx.toNat ≤ 15
  | .comp => true
  | .rdh idx => idx.toNat ≤ 4
  | .rdw idx => idx.toNat ≤ 15
  | .rdb idx => idx.toNat ≤ 19
  | .rdl idx => idx.toNat ≤ 1
  | .rdst => true

/-- The command is one an assembler emits (R78: it "never emits a faulting word"). -/
abbrev WellFormed (i : Instr) : Prop := i.wellFormed = true

end Sys2Proof
end

