-- ==== Sys2Proof/Decode.lean ====
section
/-! DEFINITION. Reading a 48-bit command word (R61 to R73): the three fields, the decode procedure of
rule R68 steps 1 and 2, the encoder written from the same formats, and the opcode map of rule R67 as
a table. Step 3 of R68 (the phase check) depends on the state and stands in the meanings. -/

namespace Sys2Proof

/-- Why a word or a command is rejected: the three causes of rule R147. -/
inductive FaultCode where
  /-- Code 1, ILLEGAL_OPCODE (R149), raised by the decoder. -/
  | illegalOpcode
  /-- Code 2, ILLEGAL_FIELD (R150), raised by the decoder. -/
  | illegalField
  /-- Code 3, SEQUENCE (R151), raised by the meanings of PUTB, FINAL, LDH, LDW and COMP. -/
  | sequence
  deriving DecidableEq, Repr

/-- R62: `op = c[47:40]`. -/
def opField (c : CmdWord) : Byte := c.extractLsb' 40 8

/-- R62: `idx = c[39:32]`. -/
def idxField (c : CmdWord) : Byte := c.extractLsb' 32 8

/-- R62: `data = c[31:0]`. -/
def dataField (c : CmdWord) : Word := c.extractLsb' 0 32

/-- R62: `c = cat(op, idx, data)`. -/
def cmdWord (op idx : Byte) (data : Word) : CmdWord := op ++ idx ++ data

/-- R69: `imm8 = data[7:0]`. -/
def imm8Of (data : Word) : Byte := data.extractLsb' 0 8

/-- R63, format Z: idx must be 0x00 and data must be 0x00000000. -/
def decodeZ (idx : Byte) (data : Word) (i : Instr) : Except FaultCode Instr :=
  if idx = 0 ∧ data = 0 then .ok i else .error .illegalField

/-- R64, format B: idx must be 0x00 and data[31:8] must be 0; data[7:0] is the immediate. -/
def decodeB (idx : Byte) (data : Word) (i : Byte → Instr) : Except FaultCode Instr :=
  if idx = 0 ∧ data.extractLsb' 8 24 = 0 then .ok (i (imm8Of data)) else .error .illegalField

/-- R65, format XW: idx is an element index up to `last`; data is the immediate, any value. -/
def decodeXW (last : Nat) (idx : Byte) (data : Word) (i : Byte → Word → Instr) :
    Except FaultCode Instr :=
  if idx.toNat ≤ last then .ok (i idx data) else .error .illegalField

/-- R66, format X: idx is an element index up to `last`; data must be 0x00000000. -/
def decodeX (last : Nat) (idx : Byte) (data : Word) (i : Byte → Instr) : Except FaultCode Instr :=
  if idx.toNat ≤ last ∧ data = 0 then .ok (i idx) else .error .illegalField

/-- R68 steps 1 and 2 on the three fields, with the opcode map of R67 and the ranges of R70. -/
def decodeFields (op idx : Byte) (data : Word) : Except FaultCode Instr :=
  match op.toNat with
  | 0x00 => decodeZ idx data .nop
  | 0x01 => decodeZ idx data .init
  | 0x02 => decodeB idx data .putb
  | 0x03 => decodeZ idx data .final
  | 0x04 => decodeXW 4 idx data .ldh
  | 0x05 => decodeXW 15 idx data .ldw
  | 0x06 => decodeZ idx data .comp
  | 0x07 => decodeX 4 idx data .rdh
  | 0x08 => decodeX 15 idx data .rdw
  | 0x09 => decodeX 19 idx data .rdb
  | 0x0A => decodeX 1 idx data .rdl
  | 0x0B => decodeZ idx data .rdst
  | _ => .error .illegalOpcode

/-- The decoder, total on every 48-bit value (R68 steps 1 and 2). -/
def decode (c : CmdWord) : Except FaultCode Instr := decodeFields (opField c) (idxField c) (dataField c)

/-- R64: a byte immediate in the data field, `data[31:8]` zero. -/
def dataOfByte (imm8 : Byte) : Word := (0 : BitVec 24) ++ imm8

/-- The word of a command (R78), the formats of R63 to R66 with the opcodes of R67. -/
def encode : Instr → CmdWord
  | .nop => cmdWord 0x00 0 0
  | .init => cmdWord 0x01 0 0
  | .putb imm8 => cmdWord 0x02 0 (dataOfByte imm8)
  | .final => cmdWord 0x03 0 0
  | .ldh idx imm32 => cmdWord 0x04 idx imm32
  | .ldw idx imm32 => cmdWord 0x05 idx imm32
  | .comp => cmdWord 0x06 0 0
  | .rdh idx => cmdWord 0x07 idx 0
  | .rdw idx => cmdWord 0x08 idx 0
  | .rdb idx => cmdWord 0x09 idx 0
  | .rdl idx => cmdWord 0x0A idx 0
  | .rdst => cmdWord 0x0B 0 0

/-- The instruction the decoder reads from a table word: spec/opcode_table.json gives every row one
48-bit word, bit 0 least significant, so the word is the command word itself; bits above `nbits` are
zero and a value of more than 48 bits is no command word (assumption 14). -/
def decodeTableWord (nbits w : Nat) : Option Instr :=
  if w % 2 ^ nbits < 2 ^ 48 then (decode (BitVec.ofNat 48 (w % 2 ^ nbits))).toOption else none

/-- A row of the opcode map of rule R67. -/
structure OpcodeRow where
  mnemonic : String
  word : CmdWord
  mask : CmdWord
  lastIdx : Nat
  deriving DecidableEq, Repr

/-- R67: "a word `c` selects the row when `(c AND mask) == match` and its idx is within range." -/
def OpcodeRow.selects (r : OpcodeRow) (c : CmdWord) : Bool :=
  c &&& r.mask == r.word && (idxField c).toNat ≤ r.lastIdx

/-- The twelve rows of rule R67, in its order. -/
def opcodeMap : List OpcodeRow :=
  [⟨"NOP", 0x000000000000, 0xFFFFFFFFFFFF, 0⟩, ⟨"INIT", 0x010000000000, 0xFFFFFFFFFFFF, 0⟩,
   ⟨"PUTB", 0x020000000000, 0xFFFFFFFFFF00, 0⟩, ⟨"FINAL", 0x030000000000, 0xFFFFFFFFFFFF, 0⟩,
   ⟨"LDH", 0x040000000000, 0xFF0000000000, 4⟩, ⟨"LDW", 0x050000000000, 0xFF0000000000, 15⟩]
  ++
  [⟨"COMP", 0x060000000000, 0xFFFFFFFFFFFF, 0⟩, ⟨"RDH", 0x070000000000, 0xFF00FFFFFFFF, 4⟩,
   ⟨"RDW", 0x080000000000, 0xFF00FFFFFFFF, 15⟩, ⟨"RDB", 0x090000000000, 0xFF00FFFFFFFF, 19⟩,
   ⟨"RDL", 0x0A0000000000, 0xFF00FFFFFFFF, 1⟩, ⟨"RDST", 0x0B0000000000, 0xFFFFFFFFFFFF, 0⟩]

/-- The mnemonic of a command, as the opcode map spells it (R67). -/
def Instr.mnemonic : Instr → String
  | .nop => "NOP"
  | .init => "INIT"
  | .putb _ => "PUTB"
  | .final => "FINAL"
  | .ldh _ _ => "LDH"
  | .ldw _ _ => "LDW"
  | .comp => "COMP"
  | .rdh _ => "RDH"
  | .rdw _ => "RDW"
  | .rdb _ => "RDB"
  | .rdl _ => "RDL"
  | .rdst => "RDST"

end Sys2Proof
end

