-- ==== Sys2Proof/Machine/State.lean ====
section
/-! DEFINITION. The state of one engine: every element of rule R13 and nothing else of the engine's
(R13: "The complete state of one engine is the following list and nothing else"), and beside it the
host's side of the two channels as plain data (assumption 1). -/

namespace Sys2Proof.Machine

/-- PHASE (R22): the three-value type that 93_implementation_defined.md U5 asks for (assumption 15). -/
inductive Phase where
  | raw
  | absorb
  | done
  deriving DecidableEq, Repr

/-- INFLIGHT (R29): whether a command is being executed, which one, and how far it has got. Only the
micro-step view (Machine/Pins.lean) writes it; between commands it is `idle`. What it holds is DESIGN
CHOICE (assumption 2): R29 calls it micro-architecture. -/
inductive Inflight where
  /-- No command is being executed. -/
  | idle
  /-- The word was accepted at the last clock edge; nothing of it has been performed. -/
  | accepted (w : CmdWord)
  /-- The block of a compression of command `i` stands in W; START is next. `more`: a second
  compression follows this one (the two-block FINAL of R120). -/
  | start (i : Instr) (more : Bool)
  /-- The rounds of that compression are running; T says how far (R17). -/
  | rounds (i : Instr) (more : Bool)
  deriving DecidableEq, Repr

/-- What the host does next (R10, R186): the model's input, held as plain data. -/
inductive HostAct where
  /-- Present this word on the command channel until it is accepted (R176). -/
  | command (w : CmdWord)
  /-- Drive `rsp_ready` to this level from now on (R177). -/
  | ready (b : Bool)
  /-- Assert `rst` for one clock edge (R171, R173). -/
  | reset
  deriving DecidableEq, Repr

/-- The engine's registers under the spec's own names (R13), then the host's side. -/
@[ext]
structure State where
  /-- H[0..4], the chaining state (R14). -/
  H : Vector Word 5
  /-- W[0..15], the block and schedule ring (R15). -/
  W : Vector Word 16
  /-- The working variable A (R16). -/
  A : Word
  /-- The working variable B (R16). -/
  B : Word
  /-- The working variable C (R16). -/
  C : Word
  /-- The working variable D (R16). -/
  D : Word
  /-- The working variable E (R16). -/
  E : Word
  /-- T, the round counter, 0 to 80 (R17). -/
  T : Fin 81
  /-- BUF[0..63], the pending-tail buffer (R18). -/
  BUF : Vector Byte 64
  /-- N, the tail count, 0 to 63 (R19). -/
  N : Fin 64
  /-- LEN, the message byte counter (R20). -/
  LEN : Len
  /-- PHASE (R22). -/
  PHASE : Phase
  /-- ERR, the sticky fault flag (R23). -/
  ERR : Bool
  /-- ECODE, the code of the first fault since reset (R24); `none` is the spec's code 0, "no fault
  recorded". -/
  ECODE : Option FaultCode
  /-- RSPD, the response holding register (R28). -/
  RSPD : Word
  /-- RSPV, its full bit (R28). -/
  RSPV : Bool
  /-- INFLIGHT, the sequencer (R29). -/
  INFLIGHT : Inflight
  /-- The host's coming actions, first one first; not the engine's state (R21, R32). -/
  host : List HostAct
  /-- The level of the input `rsp_ready`; not the engine's state. -/
  rspReady : Bool
  /-- The response words the host has taken, oldest first (R185); not the engine's state. -/
  received : List Word
  deriving DecidableEq, Repr

/-- Why a step could stop. There is no constructor: no rule of the spec stops the engine (R154: "The
engine does not stop, stall, lock up or enter a fault mode"); a fault of R147 is a next state with
ERR and ECODE written (`raiseFault`). Nothing raises this, which is safe (assumption 17). -/
inductive Fault where
  deriving DecidableEq, Repr

/-- Why a step could give no meaning. -/
inductive Refusal where
  /-- Raised by an arm of `exec` whose command has no meaning yet; safe. No arm raises it now. -/
  | notModelled (mnemonic : String)
  deriving DecidableEq, Repr

/-- The machine right after reset (R33, R171). The spec gives every element of the engine its value;
the last three fields are the host's side, DESIGN CHOICE (assumption 7). -/
def State.reset : State where
  H := #v[0x67452301, 0xEFCDAB89, 0x98BADCFE, 0x10325476, 0xC3D2E1F0]
  W := Vector.replicate 16 0
  A := 0
  B := 0
  C := 0
  D := 0
  E := 0
  T := 0
  BUF := Vector.replicate 64 0
  N := 0
  LEN := 0
  PHASE := .raw
  ERR := false
  ECODE := none
  RSPD := 0
  RSPV := false
  INFLIGHT := .idle
  host := []
  rspReady := true
  received := []

end Sys2Proof.Machine
end

