-- ==== Sys2Proof/Machine/Ops.lean ====
section
/-! DEFINITION. The named operations every command is made of: the word operators (R6), the wired
constants (R32), the fault (R148), the response push (R28), the micro-steps START, ROUND and FOLD with
the block operation `Compress` (R93, R94, R98, R99), and `Pack` (R113). -/

namespace Sys2Proof.Machine

/-- `rotl_n` (R6): left rotation of a 32-bit word, `cat(x[31-n:0], x[31:32-n])`. -/
def rotl (n : Nat) (x : Word) : Word := x.rotateLeft n

/-- `add32` (R6): addition modulo 2^32, the carry discarded (R86). -/
def add32 (x y : Word) : Word := x + y

/-- IV, the initial chaining value (R4): wired (R32). -/
def iv : Vector Word 5 := #v[0x67452301, 0xEFCDAB89, 0x98BADCFE, 0x10325476, 0xC3D2E1F0]

/-- The stage function `f(t, b, c, d)` (R87); the stage of round `t` is `t div 20` (R96). -/
def stageF (t : Nat) (b c d : Word) : Word :=
  match t / 20 with
  | 0 => (b &&& (c ^^^ d)) ^^^ d
  | 2 => (b &&& c) ||| (b &&& d) ||| (c &&& d)
  | _ => b ^^^ c ^^^ d

/-- The stage constants `K(t) = Ktable[t div 20]` (R89): wired (R32). -/
def stageK (t : Nat) : Word :=
  match t / 20 with
  | 0 => 0x5A827999
  | 1 => 0x6ED9EBA1
  | 2 => 0x8F1BBCDC
  | _ => 0xCA62C1D6

/-- `raise Fault(code)` (R148): ECODE keeps the first code, ERR is sticky, and nothing else is
written. There is no entry address, no saved state (R155) and no return (R156). -/
def raiseFault (code : FaultCode) (s : State) : State :=
  { s with ECODE := if s.ERR then s.ECODE else some code, ERR := true }

/-- `rsp_push(v)` (R28): RSPD <- v, RSPV <- 1. -/
def rspPush (v : Word) (s : State) : State := { s with RSPD := v, RSPV := true }

/-- `PHASE <- p` (R7, R22). -/
def enterPhase (p : Phase) (s : State) : State := { s with PHASE := p }

/-- `N <- n` (R7, R19). -/
def setTail (n : Fin 64) (s : State) : State := { s with N := n }

/-- `LEN <- (LEN + 1) mod 2^64` (R20, R114): the counter wraps without a fault (R118). -/
def countByte (s : State) : State := { s with LEN := s.LEN + 1 }

/-- The value that replaces ring slot `t mod 16` at the start of round `t >= 16` (R90). -/
def ringWord (W : Vector Word 16) (t : Nat) : Word :=
  rotl 1 (W[(t + 13) % 16]'(Nat.mod_lt _ (by decide)) ^^^ W[(t + 8) % 16]'(Nat.mod_lt _ (by decide))
    ^^^ W[(t + 2) % 16]'(Nat.mod_lt _ (by decide)) ^^^ W[t % 16]'(Nat.mod_lt _ (by decide)))

/-- The ring as round `t` uses it: the slot replaced when `t >= 16`, not written before (R90). -/
def ringAt (W : Vector Word 16) (t : Nat) : Vector Word 16 :=
  if 16 ≤ t then W.set (t % 16) (ringWord W t) (Nat.mod_lt _ (by decide)) else W

/-- The round input word `w_t = W[t mod 16]`, read after the replacement (R91). -/
def roundWord (W : Vector Word 16) (t : Nat) : Word :=
  (ringAt W t)[t % 16]'(Nat.mod_lt _ (by decide))

/-- The sum `temp` of round `t` (R94): five terms modulo 2^32. -/
def roundTemp (t : Nat) (a b c d e w : Word) : Word :=
  add32 (add32 (add32 (add32 (rotl 5 a) (stageF t b c d)) e) (stageK t)) w

/-- START (R93): the chaining state is copied into the working variables, T <- 0. -/
def startStep (s : State) : State :=
  { s with A := s.H[0], B := s.H[1], C := s.H[2], D := s.H[3], E := s.H[4], T := 0 }

/-- ROUND (R94), enabled when `T <= 79`; where it is not enabled nothing changes. Every right-hand
side is a value from before the round. -/
def roundStep (s : State) : State :=
  if h : s.T.val < 80 then
    { s with
      W := ringAt s.W s.T.val
      A := roundTemp s.T.val s.A s.B s.C s.D s.E (roundWord s.W s.T.val)
      B := s.A
      C := rotl 30 s.B
      D := s.C
      E := s.D
      T := ⟨s.T.val + 1, Nat.succ_lt_succ h⟩ }
  else s

/-- `n` ROUNDs one after another. -/
def roundsStep : Nat → State → State
  | 0, s => s
  | n + 1, s => roundsStep n (roundStep s)

/-- FOLD (R98): the working variables are added into the chaining state, all five words together. -/
def foldStep (s : State) : State :=
  { s with H := #v[add32 s.H[0] s.A, add32 s.H[1] s.B, add32 s.H[2] s.C, add32 s.H[3] s.D,
                   add32 s.H[4] s.E] }

/-- `Compress()` (R99): START, then ROUND eighty times, then FOLD. Irreducible for the elaborator only,
so that no proof step unfolds eighty rounds unasked; the kernel evaluates it. -/
@[irreducible] def compress (s : State) : State := foldStep (roundsStep 80 (startStep s))

/-- `Pack(M)` (R113): sixteen words, the byte with the lowest index most significant (R43). -/
def packWords (M : Vector Byte 64) : Vector Word 16 :=
  Vector.ofFn fun i : Fin 16 => M[4 * i.val] ++ M[4 * i.val + 1] ++ M[4 * i.val + 2] ++ M[4 * i.val + 3]

/-- `Pack(M)` as an operation on the state: all sixteen words of W are written (R113). -/
def packInto (M : Vector Byte 64) (s : State) : State := { s with W := packWords M }

end Sys2Proof.Machine
end

