-- ==== Sys2Proof/Machine/Controller.lean ====
section
/-! DEFINITION. The digest controller (41_digest_controller.md): the padding rule (R117 to R121) and the
commands INIT, PUTB and FINAL. -/

namespace Sys2Proof.Machine

/-- The bit length L (R118): `(LEN * 8) mod 2^64`. -/
def bitLength (len : Len) : Len := len * 8

/-- `LenField(LEN)` (R117): the eight bytes of the bit length, most significant first. -/
def lenField (len : Len) : Vector Byte 8 :=
  Vector.ofFn fun i : Fin 8 => (bitLength len).extractLsb' (56 - 8 * i.val) 8

/-- `PadOne(BUF, n, LF)` (R119): tail, marker, zeros, length field. -/
def padOne (buf : Vector Byte 64) (n : Nat) (lf : Vector Byte 8) : Vector Byte 64 :=
  Vector.ofFn fun j : Fin 64 =>
    if j.val < n then buf[j]
    else if j.val = n then 0x80
    else if h : 56 ≤ j.val then lf[j.val - 56]'(by omega)
    else 0

/-- `PadFirst(BUF, n)` (R120): tail, marker, zeros. -/
def padFirst (buf : Vector Byte 64) (n : Nat) : Vector Byte 64 :=
  Vector.ofFn fun j : Fin 64 => if j.val < n then buf[j] else if j.val = n then 0x80 else 0

/-- `PadSecond(LF)` (R120): zeros, then the length field. -/
def padSecond (lf : Vector Byte 8) : Vector Byte 64 :=
  Vector.ofFn fun j : Fin 64 => if h : 56 ≤ j.val then lf[j.val - 56]'(by omega) else 0

/-- R121: a tail of at most 55 bytes takes one final block, a longer one two. -/
def oneFinalBlock (n : Fin 64) : Bool := n.val ≤ 55

/-- The compressions of FINAL (R116): one padded block, or two one after the other. -/
def finalBlocks (s : State) : State :=
  if oneFinalBlock s.N then
    compress (packInto (padOne s.BUF s.N.val (lenField s.LEN)) s)
  else
    compress (packInto (padSecond (lenField s.LEN))
      (compress (packInto (padFirst s.BUF s.N.val) s)))

/-- The part of INIT that starts a message (R112). -/
def startMessage (s : State) : State := { s with H := iv, LEN := 0, N := 0, PHASE := .absorb }

/-- INIT (R112), allowed in every phase; it clears neither ERR nor ECODE. -/
def execInit (s : State) : Host.Outcome State Fault Refusal := .next (startMessage s)

/-- The byte is stored at BUF[N] (R114). -/
def storeByte (imm8 : Byte) (s : State) : State := { s with BUF := s.BUF.set s.N imm8 }

/-- PUTB imm8 (R114): the 64th byte of a block compresses it. -/
def execPutb (imm8 : Byte) (s : State) : Host.Outcome State Fault Refusal :=
  if s.PHASE = .absorb then
    if s.N = 63 then
      .next (setTail 0 (countByte (compress (packInto (storeByte imm8 s).BUF (storeByte imm8 s)))))
    else .next (setTail (s.N + 1) (countByte (storeByte imm8 s)))
  else .next (raiseFault .sequence s)

/-- FINAL (R116): pad, compress the final block or blocks, finish. -/
def execFinal (s : State) : Host.Outcome State Fault Refusal :=
  if s.PHASE = .absorb then .next (enterPhase .done (setTail 0 (finalBlocks s)))
  else .next (raiseFault .sequence s)

end Sys2Proof.Machine
end

