-- ==== Sys2Proof/Machine/Operands.lean ====
section
/-! DEFINITION. The index spaces of rule R42 and the one addressing mode: the idx field is the element
index as it stands. An index outside a space's range is no access to anything (R42), so `element`
answers `none` there and the command raises ILLEGAL_FIELD (R150). -/

namespace Sys2Proof.Machine

/-- The element of a space of `size` elements that the idx field selects (R70). -/
def element (size : Nat) (idx : Byte) : Option (Fin size) :=
  if h : idx.toNat < size then some ⟨idx.toNat, h⟩ else none

/-- HSPACE, read (R42). -/
def readH (s : State) (i : Fin 5) : Word := s.H[i]

/-- HSPACE, write of one word (R103). -/
def writeH (i : Fin 5) (v : Word) (s : State) : State := { s with H := s.H.set i v }

/-- WSPACE, read (R42). -/
def readW (s : State) (i : Fin 16) : Word := s.W[i]

/-- WSPACE, write of one word (R104). -/
def writeW (i : Fin 16) (v : Word) (s : State) : State := { s with W := s.W.set i v }

/-- DSPACE: `DigestBytes[j] = H[j div 4][31 - 8*(j mod 4) : 24 - 8*(j mod 4)]` (R134). -/
def digestByte (s : State) (j : Fin 20) : Byte :=
  (s.H[j.val / 4]'(by omega)).extractLsb' (24 - 8 * (j.val % 4)) 8

/-- LSPACE: the low half of LEN for index 0, the high half for index 1 (R136). -/
def readLenHalf (s : State) (k : Fin 2) : Word :=
  if k = 0 then s.LEN.extractLsb' 0 32 else s.LEN.extractLsb' 32 32

end Sys2Proof.Machine
end

