-- ==== Sys2Proof/Machine/RawPath.lean ====
section
/-! DEFINITION. The raw-path commands LDH, LDW and COMP (40_compression.md section 5): the compression
engine on a chaining value and a block that the host supplies. -/

namespace Sys2Proof.Machine

/-- LDH i, imm32 (R103). -/
def execLdh (idx : Byte) (imm32 : Word) (s : State) : Host.Outcome State Fault Refusal :=
  match element 5 idx with
  | none => .next (raiseFault .illegalField s)
  | some i =>
    if s.PHASE = .absorb then .next (raiseFault .sequence s)
    else .next (enterPhase .raw (writeH i imm32 s))

/-- LDW i, imm32 (R104). -/
def execLdw (idx : Byte) (imm32 : Word) (s : State) : Host.Outcome State Fault Refusal :=
  match element 16 idx with
  | none => .next (raiseFault .illegalField s)
  | some i =>
    if s.PHASE = .absorb then .next (raiseFault .sequence s)
    else .next (enterPhase .raw (writeW i imm32 s))

/-- COMP (R105): H and W are compressed exactly as they stand. -/
def execComp (s : State) : Host.Outcome State Fault Refusal :=
  if s.PHASE = .absorb then .next (raiseFault .sequence s)
  else .next (enterPhase .raw (compress s))

end Sys2Proof.Machine
end

