-- ==== Sys2Proof/Machine/Flags.lean ====
section
/-! DEFINITION. The engine's one flag and its code (R23, R24) and the status word assembled from them
(R25). No arithmetic writes a flag (R23). -/

namespace Sys2Proof.Machine

/-- The two bits of PHASE (R22): 0 RAW, 1 ABSORB, 2 DONE. -/
def phaseBits : Phase → BitVec 2
  | .raw => 0
  | .absorb => 1
  | .done => 2

/-- The number of a fault code (R147). -/
def codeBits : FaultCode → BitVec 4
  | .illegalOpcode => 1
  | .illegalField => 2
  | .sequence => 3

/-- The four bits of ECODE (R24): 0 is "no fault recorded". -/
def ecodeBits : Option FaultCode → BitVec 4
  | none => 0
  | some c => codeBits c

/-- STATUS (R25): `cat(zext_18(0), N, ECODE, ERR, 0b0, PHASE)`. -/
def status (s : State) : Word :=
  (0 : BitVec 18) ++ BitVec.ofNat 6 s.N.val ++ ecodeBits s.ECODE ++ BitVec.ofBool s.ERR
    ++ (0 : BitVec 1) ++ phaseBits s.PHASE

end Sys2Proof.Machine
end

