-- ==== Sys2Proof/Machine/Readout.lean ====
section
/-! DEFINITION. The read-out and system commands NOP, RDH, RDW, RDB, RDL and RDST
(42_readout_and_system.md). They are allowed in every phase and change nothing but RSP (R49). -/

namespace Sys2Proof.Machine

/-- NOP (R131): no state change, no response. -/
def execNop (s : State) : Host.Outcome State Fault Refusal := .next s

/-- RDH i (R132). -/
def execRdh (idx : Byte) (s : State) : Host.Outcome State Fault Refusal :=
  match element 5 idx with
  | none => .next (raiseFault .illegalField s)
  | some i => .next (rspPush (readH s i) s)

/-- RDW i (R133). -/
def execRdw (idx : Byte) (s : State) : Host.Outcome State Fault Refusal :=
  match element 16 idx with
  | none => .next (raiseFault .illegalField s)
  | some i => .next (rspPush (readW s i) s)

/-- RDB j (R135): the byte is zero-extended. -/
def execRdb (idx : Byte) (s : State) : Host.Outcome State Fault Refusal :=
  match element 20 idx with
  | none => .next (raiseFault .illegalField s)
  | some j => .next (rspPush ((digestByte s j).setWidth 32) s)

/-- RDL k (R136). -/
def execRdl (idx : Byte) (s : State) : Host.Outcome State Fault Refusal :=
  match element 2 idx with
  | none => .next (raiseFault .illegalField s)
  | some k => .next (rspPush (readLenHalf s k) s)

/-- RDST (R137): it does not clear ERR. -/
def execRdst (s : State) : Host.Outcome State Fault Refusal := .next (rspPush (status s) s)

end Sys2Proof.Machine
end

