-- ==== Sys2Proof/Machine/Dispatch.lean ====
section
/-! DEFINITION. One arm per command: the meaning of each. -/

namespace Sys2Proof.Machine

def exec (i : Instr) (s : State) : Host.Outcome State Fault Refusal :=
  match i with
  | .nop => Sys2Proof.Machine.execNop s
  | .init => Sys2Proof.Machine.execInit s
  | .putb imm8 => Sys2Proof.Machine.execPutb imm8 s
  | .final => Sys2Proof.Machine.execFinal s
  | .ldh idx imm32 => Sys2Proof.Machine.execLdh idx imm32 s
  | .ldw idx imm32 => Sys2Proof.Machine.execLdw idx imm32 s
  | .comp => Sys2Proof.Machine.execComp s
  | .rdh idx => Sys2Proof.Machine.execRdh idx s
  | .rdw idx => Sys2Proof.Machine.execRdw idx s
  | .rdb idx => Sys2Proof.Machine.execRdb idx s
  | .rdl idx => Sys2Proof.Machine.execRdl idx s
  | .rdst => Sys2Proof.Machine.execRdst s

end Sys2Proof.Machine
end

