-- ==== Sys2Proof/Machine/Port.lean ====
section
/-! DEFINITION. The host's port (R176, R177, R185): how a command word is taken and performed, how a
response is handed over, what `rst` does. Machine/Step.lean only calls these. -/

namespace Sys2Proof.Machine

/-- R68 on a whole word: a word that does not decode raises its fault, another executes. -/
def execWord (w : CmdWord) (s : State) : Host.Outcome State Fault Refusal :=
  match decode w with
  | .error code => .next (raiseFault code s)
  | .ok i => exec i s

/-- The host's list of actions becomes `rest`: the action before it has been taken up. -/
def takeOff (rest : List HostAct) (s : State) : State := { s with host := rest }

/-- `rst` at a clock edge (R171, R173): every element of the engine takes its reset value, whatever
it was doing. The host's own side is not the engine's and stays (DEDUCED, assumption 18). -/
def resetEngine (s : State) : State :=
  { State.reset with host := s.host, rspReady := s.rspReady, received := s.received }

/-- The hand-over of a response (R28): the host has the word, RSPV is cleared; RSPD stays (DEDUCED,
assumption 11). -/
def handOver (s : State) : State :=
  { s with RSPV := false, received := s.received ++ [s.RSPD] }

/-- `INFLIGHT <- x` (R29). -/
def withInflight (x : Inflight) (s : State) : State := { s with INFLIGHT := x }

/-- `idle` (R27, R29): no command is being executed. -/
def idle (s : State) : Bool := s.INFLIGHT = .idle

/-- A command word is transferred at an edge where the engine is idle and the response register is
empty (R29, R176). -/
def canAccept (s : State) : Bool := idle s && !s.RSPV

/-- Place the next command word at the head of what the host does, with the engine able to take it;
words are numbered as spec/opcode_table.json numbers them, which is the word itself. -/
def placeWord (nbits w : Nat) (s : State) : State :=
  { s with host := .command (BitVec.ofNat 48 (w % 2 ^ nbits)) :: s.host, RSPV := false,
           INFLIGHT := .idle }

end Sys2Proof.Machine
end

