-- ==== Sys2Proof/Machine/Pins.lean ====
section
/-! DEFINITION. The engine seen at its pins: the outputs as functions of the state (R27, R138, R171),
the micro-sequence of a command in flight (R10, R29, R180), and one clock edge (R171, R176, R177). A
command is accepted at one edge and completes at a later one; in between the engine makes micro-steps
START, ROUND, FOLD. How many of them an implementation makes at an edge is open (R183), so the edge
takes that number as an argument (assumption 12). -/

namespace Sys2Proof.Machine

/-- `done_o = (PHASE == 2)` (R27). -/
def doneO (s : State) : Bool := s.PHASE = .done

/-- `err_o = ERR` (R27). -/
def errO (s : State) : Bool := s.ERR

/-- `busy_o = NOT idle` (R27). -/
def busyO (s : State) : Bool := !idle s

/-- `digest_o[159:0] = cat(H[0], H[1], H[2], H[3], H[4])` (R27, R138). -/
def digestO (s : State) : BitVec 160 := s.H[0] ++ s.H[1] ++ s.H[2] ++ s.H[3] ++ s.H[4]

/-- `cmd_ready` (R29), 0 while `rst = 1` (R171). -/
def cmdReady (rst : Bool) (s : State) : Bool := !rst && canAccept s

/-- `rsp_valid = RSPV` (R28), 0 while `rst = 1` (R171; assumption 6). -/
def rspValid (rst : Bool) (s : State) : Bool := !rst && s.RSPV

/-- `rsp_data = RSPD` (R28). -/
def rspData (s : State) : Word := s.RSPD

/-- The block that the first compression of command `i` works on, stored in W, and whether a second
one follows; `none` where the command contains no compression in this state (R105, R114, R116). That
BUF and W change at the first micro-step is DESIGN CHOICE (assumption 10). -/
def loadBlock (i : Instr) (s : State) : Option (State × Bool) :=
  match i with
  | .comp => if s.PHASE = .absorb then none else some (s, false)
  | .putb imm8 =>
    if s.PHASE = .absorb ∧ s.N = 63 then
      some (packInto (storeByte imm8 s).BUF (storeByte imm8 s), false)
    else none
  | .final =>
    if s.PHASE = .absorb then
      if oneFinalBlock s.N then some (packInto (padOne s.BUF s.N.val (lenField s.LEN)) s, false)
      else some (packInto (padFirst s.BUF s.N.val) s, true)
    else none
  | .nop | .init | .ldh _ _ | .ldw _ _ | .rdh _ | .rdw _ | .rdb _ | .rdl _ | .rdst => none

/-- The number of compressions a command contains in a state (R123, R183): 0, 1 or 2. -/
def compressions (i : Instr) (s : State) : Nat :=
  match loadBlock i s with
  | none => 0
  | some (_, false) => 1
  | some (_, true) => 2

/-- R183: the clock cycles from the acceptance of a command to its completion. -/
def commandCycles (i : Instr) (s : State) : Nat := Config.cyclesOfCommand (compressions i s)

/-- What is written at the last FOLD edge of a command beside H (R48, R105, R114, R116, R180). -/
def finishCommand (i : Instr) (s : State) : State :=
  match i with
  | .comp => enterPhase .raw s
  | .putb _ => setTail 0 (countByte s)
  | .final => enterPhase .done (setTail 0 s)
  | .nop | .init | .ldh _ _ | .ldw _ _ | .rdh _ | .rdw _ | .rdb _ | .rdl _ | .rdst => s

/-- The FOLD edge (R98): the end of the command, or the second final block goes into W (R120). -/
def foldEdge (i : Instr) (more : Bool) (s : State) : State :=
  if more then
    withInflight (.start i false) (packInto (padSecond (lenField s.LEN)) (foldStep s))
  else withInflight .idle (finishCommand i (foldStep s))

/-- One micro-step of the command in flight (R10, R29). A command with no compression completes in
one; a command with `k` compressions takes `1 + 82 * k`. -/
def microStep (s : State) : Host.Outcome State Fault Refusal :=
  match s.INFLIGHT with
  | .idle => .next s
  | .accepted w =>
    match decode w with
    | .error code => .next (raiseFault code (withInflight .idle s))
    | .ok i =>
      match loadBlock i s with
      | none => exec i (withInflight .idle s)
      | some (s', more) => .next (withInflight (.start i more) s')
  | .start i more => .next (withInflight (.rounds i more) (startStep s))
  | .rounds i more => if s.T.val < 80 then .next (roundStep s) else .next (foldEdge i more s)

/-- `n` micro-steps one after another. -/
def microSteps : Nat → State → Host.Outcome State Fault Refusal
  | 0, s => .next s
  | n + 1, s =>
    match microStep s with
    | .next s' => microSteps n s'
    | .fault r => .fault r
    | .refused r => .refused r

/-- The most micro-steps any command takes: acceptance and two compressions of 82 each. -/
def longestCommand : Nat := 1 + 82 * 2

/-- The command in flight runs to its completion (R183: every accepted command completes). -/
def completeInflight (s : State) : Host.Outcome State Fault Refusal := microSteps longestCommand s

/-- The inputs at a clock edge, `clk` and the number of micro-steps apart (92_eei_decisions.md D2). -/
structure PinsIn where
  rst : Bool
  cmdValid : Bool
  cmdWord : CmdWord
  rspReady : Bool
  deriving DecidableEq, Repr

/-- One rising clock edge at which the engine makes `k` micro-steps of the command in flight. `rst`
wins over everything (R58, R171). A waiting response blocks acceptance (R177). Otherwise an idle
engine takes the presented word (R176); nothing of it is performed at that edge (DEDUCED,
assumption 20). -/
def clockEdge (k : Nat) (p : PinsIn) (s : State) : Host.Outcome State Fault Refusal :=
  if p.rst then .next (resetEngine s)
  else if idle s then
    if s.RSPV then .next (if p.rspReady then handOver s else s)
    else .next (if p.cmdValid then withInflight (.accepted p.cmdWord) s else s)
  else microSteps k s

end Sys2Proof.Machine
end

