-- ==== Sys2Proof/Machine/Step.lean ====
section
/-! DEFINITION. One step of the engine at the command level (R10, R185): the host's next action is
taken up. A command is one atomic step (R48, R53). -/

namespace Sys2Proof.Machine

/-- `rst` wins over everything (R58). A change of `rsp_ready` is the host's own. A command in flight
(the micro-step view's) completes first (assumption 4). A waiting response is handed over or blocks the engine
(R177). Then the next command word is accepted and performed (R176, R68); with none the engine waits,
holding all state (R166, R186). -/
def step (s : State) : Host.Outcome State Fault Refusal :=
  match s.host with
  | .reset :: rest => .next (resetEngine (takeOff rest s))
  | .ready b :: rest => .next { takeOff rest s with rspReady := b }
  | [] =>
    if idle s then .next (if s.RSPV && s.rspReady then handOver s else s)
    else completeInflight s
  | .command w :: rest =>
    if idle s then
      if s.RSPV then .next (if s.rspReady then handOver s else s)
      else execWord w (takeOff rest s)
    else completeInflight s

/-- The command word as the next thing the host presents, to an engine that can accept it. -/
def State.withFetchWord (s : State) (nbits w : Nat) : State := placeWord nbits w s

end Sys2Proof.Machine
end

