-- ==== Sys2Proof/Machine/Reference.lean ====
section
/-! DEFINITION. What the engine is held to, as pure functions of words and bytes and apart from the
machine: the schedule (R92), the compression (R99), the padded message (R119, R120, R122), the digest
of a byte sequence (R12) and the notation function `Hex40` (R141). No meaning of a command calls them. -/

namespace Sys2Proof.Machine

/-- The sixteen schedule words `S[n], ..., S[n + 15]` of the block `block`, by the recurrence of R92. -/
def scheduleWindow (block : Vector Word 16) : Nat → Vector Word 16
  | 0 => block
  | n + 1 =>
    let v := scheduleWindow block n
    Vector.ofFn fun i : Fin 16 =>
      if h : i.val < 15 then v[i.val + 1]'(by omega) else rotl 1 (v[13] ^^^ v[8] ^^^ v[2] ^^^ v[0])

/-- The virtual schedule `S[t]` of a block (R92). -/
def schedule (block : Vector Word 16) (t : Nat) : Word := (scheduleWindow block t)[0]

/-- The two equations that rule R92 defines the schedule by. -/
def IsSchedule (block : Vector Word 16) (S : Nat → Word) : Prop :=
  (∀ t (h : t < 16), S t = block[t]) ∧
  ∀ t, 16 ≤ t → t < 80 → S t = rotl 1 (S (t - 3) ^^^ S (t - 8) ^^^ S (t - 14) ^^^ S (t - 16))

/-- `(a_t, b_t, c_t, d_t, e_t)` of rule R99, from the chaining value and a schedule. -/
def workingAt (h : Vector Word 5) (S : Nat → Word) : Nat → Vector Word 5
  | 0 => h
  | t + 1 =>
    let v := workingAt h S t
    #v[rotl 5 v[0] + stageF t v[1] v[2] v[3] + v[4] + stageK t + S t, v[0], rotl 30 v[1], v[2], v[3]]

/-- The next chaining value of rule R99, from a chaining value and a schedule. -/
def foldAt (h : Vector Word 5) (S : Nat → Word) : Vector Word 5 :=
  Vector.ofFn fun j : Fin 5 => h[j] + (workingAt h S 80)[j]

/-- The compression as a pure function of the chaining value and the block (R99). -/
def compressFn (h : Vector Word 5) (block : Vector Word 16) : Vector Word 5 :=
  foldAt h (schedule block)

/-- Block `q` of a byte sequence: its 64 bytes from `64 * q` on. -/
def blockOf (bytes : List Byte) (q : Nat) : Vector Byte 64 :=
  Vector.ofFn fun j : Fin 64 => bytes.getD (64 * q + j.val) 0

/-- The chaining value after the first `n` blocks of a byte sequence, from `h` (R115). -/
def chain (h : Vector Word 5) (bytes : List Byte) : Nat → Vector Word 5
  | 0 => h
  | n + 1 => compressFn (chain h bytes n) (packWords (blockOf bytes n))

/-- The padded message: the bytes, the marker 0x80, the fewest zeros and the eight length bytes that
make whole blocks (R119, R120, R122). -/
def paddedMessage (m : List Byte) : List Byte :=
  m ++ 0x80 :: List.replicate ((119 - m.length % 64) % 64) 0
    ++ (lenField (BitVec.ofNat 64 m.length)).toList

/-- The SHA-1 digest of a byte sequence, by the rules (R12): IV, then every block of its padded form. -/
def digest (m : List Byte) : Vector Word 5 :=
  chain iv (paddedMessage m) ((paddedMessage m).length / 64)

/-- The sixteen lower-case hexadecimal digits (R141). -/
def hexDigits : List Char :=
  ['0', '1', '2', '3', '4', '5', '6', '7', '8', '9', 'a', 'b', 'c', 'd', 'e', 'f']

/-- One hexadecimal digit. -/
def hexDigit (v : Nat) : Char := hexDigits.getD (v % 16) '0'

/-- The eight hexadecimal digits of a word, most significant first (R141). -/
def hexWord (w : Word) : List Char := (List.range 8).map fun k => hexDigit (w.toNat / 16 ^ (7 - k))

/-- The two hexadecimal digits of a byte. -/
def hexByte (b : Byte) : List Char := [hexDigit (b.toNat / 16), hexDigit b.toNat]

/-- `Hex40(H)` (R141): the forty characters of the five words in order. -/
def hex40 (h : Vector Word 5) : List Char := h.toList.flatMap hexWord

end Sys2Proof.Machine
end

