-- ==== Sys2Proof/Machine/Assembly.lean ====
section
/-! DEFINITION. What an assembler emits (R78) and the pseudo-commands (R79) as lists of commands, and how
the document's operations map onto commands (R80). -/

namespace Sys2Proof.Machine

/-- R78: the word of a command; "An assembler refuses an operand outside its range". -/
def assemble (i : Instr) : Option CmdWord := if i.wellFormed then some (encode i) else none

/-- `PUTS`, `PUTX` (R79): one PUTB per byte, in order. -/
def puts (m : List Byte) : List Instr := m.map .putb

/-- `REP n, PUTB imm8` (R79). -/
def rep (n : Nat) (imm8 : Byte) : List Instr := List.replicate n (.putb imm8)

/-- `LDIV` (R79): the five words of IV by LDH. -/
def ldiv : List Instr :=
  [.ldh 0 0x67452301, .ldh 1 0xEFCDAB89, .ldh 2 0x98BADCFE, .ldh 3 0x10325476, .ldh 4 0xC3D2E1F0]

/-- `LDBLK w0, ..., w15` (R79): the sixteen words by LDW. -/
def ldblk (block : Vector Word 16) : List Instr :=
  (List.finRange 16).map fun i => .ldw (BitVec.ofNat 8 i.val) block[i]

/-- `RDDIG` (R79): the five words by RDH. -/
def rddig : List Instr := (List.range 5).map fun i => .rdh (BitVec.ofNat 8 i)

/-- `RDDIGB` (R79): the twenty bytes by RDB. -/
def rddigb : List Instr := (List.range 20).map fun j => .rdb (BitVec.ofNat 8 j)

/-- `DIGEST` (R79), the document's `digest(bytes)` (R80): INIT, one PUTB per byte, FINAL. -/
def digestCommands (m : List Byte) : List Instr := .init :: puts m ++ [.final]

/-- The raw-path sequence of rule R106: LDIV, then LDBLK and COMP for each block of the padded message. -/
def rawCommands (m : List Byte) : List Instr :=
  ldiv ++ (List.range ((paddedMessage m).length / 64)).flatMap fun q =>
    ldblk (packWords (blockOf (paddedMessage m) q)) ++ [.comp]

/-- A list of commands as the host presents it: their words, in order (R185). -/
def asHost (cmds : List Instr) : List HostAct := cmds.map fun i => .command (encode i)

end Sys2Proof.Machine
end

