-- ==== Sys2Proof/Safety.lean ====
section
/-! DEFINITION. The terms claims are stated in: the invariants of rule R30 with the coherence of the
command in flight, when the engine takes a command, the fault conditions of rules R150 and R151, and
what a run is (R185). -/

namespace Sys2Proof.Machine

/-- The command in flight fits the state it was accepted in (the micro-step view): only COMP, a PUTB
that completes a block, and FINAL have a compression, in the phase that allows them. -/
def InflightOk (s : State) : Prop :=
  match s.INFLIGHT with
  | .idle => True
  | .accepted _ => True
  | .start i more | .rounds i more =>
    match i with
    | .comp => s.PHASE ≠ .absorb ∧ more = false
    | .putb _ => s.PHASE = .absorb ∧ s.N = 63 ∧ more = false
    | .final => s.PHASE = .absorb ∧ (more = true → 56 ≤ s.N.val)
    | .nop | .init | .ldh _ _ | .ldw _ _ | .rdh _ | .rdw _ | .rdb _ | .rdl _ | .rdst => False

/-- Rule R30, the parts that the types of State do not already say (N <= 63, the three phases,
T <= 80, ECODE <= 3 and at most one response are types): ECODE = 0 exactly when ERR = 0, DONE implies
N = 0, ABSORB implies N = LEN mod 64. Beside them: a waiting response means no command is in flight
(R29), and the command in flight is coherent. -/
def EngineInv (s : State) : Prop :=
  (s.ECODE = none ↔ s.ERR = false) ∧
  (s.PHASE = .done → s.N = 0) ∧
  (s.PHASE = .absorb → s.N.val = s.LEN.toNat % 64) ∧
  (s.RSPV = true → idle s = true) ∧
  InflightOk s

/-- The engine takes the host's next command word `w` at this step (R176). -/
def Presents (s : State) (w : CmdWord) (rest : List HostAct) : Prop :=
  canAccept s = true ∧ s.host = .command w :: rest

/-- Every word with opcode `op` that the engine takes changes the state as `effect` says, on the word's
idx and data fields and the state with the word taken off. -/
def WordEffect (op : Byte) (effect : Byte → Word → State → State) : Prop :=
  ∀ s idx data rest, Presents s (cmdWord op idx data) rest →
    step s = .next (effect idx data (takeOff rest s))

/-- R150: a must-be-zero field is not zero, or idx is above the command's range. -/
def fieldBad (op idx : Byte) (data : Word) : Prop :=
  match op.toNat with
  | 0x00 | 0x01 | 0x03 | 0x06 | 0x0B => idx ≠ 0 ∨ data ≠ 0
  | 0x02 => idx ≠ 0 ∨ data.toNat / 2 ^ 8 ≠ 0
  | 0x04 => idx.toNat > 4
  | 0x05 => idx.toNat > 15
  | 0x07 => idx.toNat > 4 ∨ data ≠ 0
  | 0x08 => idx.toNat > 15 ∨ data ≠ 0
  | 0x09 => idx.toNat > 19 ∨ data ≠ 0
  | 0x0A => idx.toNat > 1 ∨ data ≠ 0
  | _ => False

/-- R151: "the command is PUTB or FINAL and PHASE is not ABSORB (it is RAW or DONE); or the command is
LDH, LDW or COMP and PHASE is ABSORB". -/
def phaseBad (op : Byte) (phase : Phase) : Prop :=
  match op.toNat with
  | 0x02 | 0x03 => phase ≠ .absorb
  | 0x04 | 0x05 | 0x06 => phase = .absorb
  | _ => False

/-- The read commands (R28, R75). -/
def isRead : Instr → Bool
  | .rdh _ | .rdw _ | .rdb _ | .rdl _ | .rdst => true
  | .nop | .init | .putb _ | .final | .ldh _ _ | .ldw _ _ | .comp => false

/-- The host takes responses (R186: it must), or none is waiting. -/
def responsesTaken (s : State) : Bool := s.rspReady || !s.RSPV

/-- The step that hands over a response still waiting when a run starts. -/
def waitingSteps (s : State) : Nat := if s.RSPV then 1 else 0

/-- The host performs `cmds` next, then whatever it did before. -/
def withCommands (cmds : List Instr) (s : State) : State := { s with host := asHost cmds ++ s.host }

/-- `n` steps one after another (R185): a run of the engine on what the host does. -/
def run : Nat → State → Host.Outcome State Fault Refusal
  | 0, s => .next s
  | n + 1, s =>
    match step s with
    | .next s' => run n s'
    | .fault r => .fault r
    | .refused r => .refused r

/-- The clock edges of a list of inputs, `k` micro-steps of the command in flight at each. -/
def edges (k : Nat) : List PinsIn → State → Host.Outcome State Fault Refusal
  | [], s => .next s
  | p :: ps, s =>
    match clockEdge k p s with
    | .next s' => edges k ps s'
    | .fault r => .fault r
    | .refused r => .refused r

/-- The columns of the access matrix of rule R31. -/
inductive Element where
  | H | W | working | BUF | N | LEN | PHASE | RSP
  deriving DecidableEq, Repr

/-- The access matrix of rule R31, its "w" entries: which elements a command may write when it does not
fault. -/
def mayWrite : Instr → List Element
  | .nop => []
  | .init => [.H, .N, .LEN, .PHASE]
  | .putb _ => [.H, .W, .working, .BUF, .N, .LEN]
  | .final => [.H, .W, .working, .N, .PHASE]
  | .ldh _ _ => [.H, .PHASE]
  | .ldw _ _ => [.W, .PHASE]
  | .comp => [.H, .W, .working, .PHASE]
  | .rdh _ | .rdw _ | .rdb _ | .rdl _ | .rdst => [.RSP]

/-- The element of a column is the same in two states. -/
def sameElement (e : Element) (s t : State) : Prop :=
  match e with
  | .H => t.H = s.H
  | .W => t.W = s.W
  | .working => t.A = s.A ∧ t.B = s.B ∧ t.C = s.C ∧ t.D = s.D ∧ t.E = s.E ∧ t.T = s.T
  | .BUF => t.BUF = s.BUF
  | .N => t.N = s.N
  | .LEN => t.LEN = s.LEN
  | .PHASE => t.PHASE = s.PHASE
  | .RSP => t.RSPV = s.RSPV ∧ t.RSPD = s.RSPD

/-- PHASE after a command that the engine takes in phase `p`, faulting or not: the table of R22. -/
def phaseAfter (w : CmdWord) (p : Phase) : Phase :=
  match decode w with
  | .error _ => p
  | .ok i =>
    match i, p with
    | .init, _ => .absorb
    | .final, .absorb => .done
    | .ldh _ _, .raw | .ldw _ _, .raw | .comp, .raw => .raw
    | .ldh _ _, .done | .ldw _ _, .done | .comp, .done => .raw
    | _, p => p

/-- A run has ended (R185): the last command has completed and RSP is empty. -/
def ended (s : State) : Bool := s.host.isEmpty && canAccept s

/-- The message byte that a word between INIT and FINAL brings: a PUTB's (R111). -/
def messageByte (w : CmdWord) : Option Byte :=
  match decode w with
  | .ok (.putb b) => some b
  | _ => none

/-- The message of a list of words between INIT and FINAL (R111). -/
def absorbed (ws : List CmdWord) : List Byte := ws.filterMap messageByte

/-- A word between INIT and FINAL: neither of the two (R111). A read, a NOP and a word that faults may
stand there. -/
def insideMessage (w : CmdWord) : Prop := decode w ≠ .ok .init ∧ decode w ≠ .ok .final

/-- A word that the engine answers with a response: a read that does not fault (R28). -/
def responds (w : CmdWord) : Bool :=
  match decode w with
  | .ok i => isRead i
  | .error _ => false

/-- The words of a list that are answered, and so the hand-over steps they bring (R177). -/
def responseCount (ws : List CmdWord) : Nat := (ws.filter responds).length

/-- Rule R115's invariant: the state holds the message `m` in progress. -/
def Absorbing (m : List Byte) (s : State) : Prop :=
  s.PHASE = .absorb ∧ s.LEN.toNat = m.length % 2 ^ 64 ∧ s.N.val = m.length % 64 ∧
  (∀ (j : Nat) (h : j < s.N.val), m[64 * (m.length / 64) + j]? = some (s.BUF[j]'(by omega))) ∧
  s.H = chain iv m (m.length / 64)

/-- A word that faults when the engine takes it in ABSORB (R149 to R151). -/
def faultsInAbsorb (w : CmdWord) : Bool :=
  match decode w with
  | .error _ => true
  | .ok i =>
    match i with
    | .ldh _ _ | .ldw _ _ | .comp => true
    | .nop | .init | .putb _ | .final | .rdh _ | .rdw _ | .rdb _ | .rdl _ | .rdst => false

end Sys2Proof.Machine
end

