-- ==== Sys2Proof/Certificates/Slice0/Obligations.lean ====
section
/-! DEFINITION. The statements for the provers, in the order of the spec's files: reset and state, words
and encoding, the compression, the commands, the controller, read-out, faults, the port and the
micro-step view, invariants. -/

open Sys2Proof Sys2Proof.Machine

/-! ## Reset and state (10_state.md, 70_reset_and_hazards.md) -/

/-- R172: the outputs after reset, STATUS, and that the engine then waits for the first command: an edge
with no command valid leaves it as it is, whatever else is on the pins. -/
def Obligations.OutputsAfterReset : Prop :=
  busyO State.reset = false ∧ doneO State.reset = false ∧ errO State.reset = false ∧
  rspValid false State.reset = false ∧ cmdReady false State.reset = true ∧
  digestO State.reset = 0x67452301EFCDAB8998BADCFE10325476C3D2E1F0 ∧
  status State.reset = 0x00000000 ∧
  (∀ k w ready,
    clockEdge k { rst := false, cmdValid := false, cmdWord := w, rspReady := ready } State.reset
      = .next State.reset)

/-- R171, R33: an edge with `rst = 1` gives every element its reset value, whatever the engine is doing
and whatever the other inputs are; no command is accepted and no response is valid; no edge without
`rst` clears ERR or ECODE. That the last three fields, the host's side, keep their values is no rule of
the spec but the model's reading (DEDUCED, log entry 18), so the basis is derived. Their values in
`State.reset` itself (DESIGN CHOICE, log entry 7) are not stated. -/
def Obligations.ResetEdgeAndStickyFault : Prop :=
  (∀ k p s, p.rst = true →
    clockEdge k p s =
      .next { H := #v[0x67452301, 0xEFCDAB89, 0x98BADCFE, 0x10325476, 0xC3D2E1F0]
              W := Vector.replicate 16 0, A := 0, B := 0, C := 0, D := 0, E := 0, T := 0
              BUF := Vector.replicate 64 0, N := 0, LEN := 0, PHASE := .raw
              ERR := false, ECODE := none, RSPD := 0, RSPV := false, INFLIGHT := .idle
              host := s.host, rspReady := s.rspReady, received := s.received }) ∧
  (∀ s, State.reset =
    { resetEngine s with
      host := State.reset.host, rspReady := State.reset.rspReady
      received := State.reset.received }) ∧
  (∀ s, cmdReady true s = false ∧ rspValid true s = false) ∧
  (∀ k p s t, p.rst = false → s.ERR = true → clockEdge k p s = .next t →
    t.ERR = true ∧ t.ECODE = s.ECODE)

/-- R173, R58: `rst` is taken in every state, a command in flight and a waiting response included, and
wins over every other input of that edge: nothing of the command survives, the response is not
delivered, the word presented is not accepted. First the command level, then the pins. That `rst` keeps
the host's side (host, rspReady, received) is the model's reading (DEDUCED, log entry 18), so the basis
is derived. -/
def Obligations.ResetTakenInEveryState : Prop :=
  (∀ s rest, s.host = .reset :: rest →
    step s =
      .next { State.reset with host := rest, rspReady := s.rspReady, received := s.received }) ∧
  (∀ k s cmdValid w ready,
    clockEdge k { rst := true, cmdValid := cmdValid, cmdWord := w, rspReady := ready } s =
      .next { State.reset with host := s.host, rspReady := s.rspReady, received := s.received })

/-- R25: STATUS as a number and bit field by bit field, the legal values of its fields, the reserved
fields reading 0, its value after reset, and RDST as its reader. -/
def Obligations.StatusFields : Prop :=
  (∀ s,
    (status s).toNat = (phaseBits s.PHASE).toNat + 8 * (if s.ERR then 1 else 0)
      + 16 * (ecodeBits s.ECODE).toNat + 256 * s.N.val ∧
    (status s).extractLsb' 0 2 = phaseBits s.PHASE ∧
    (status s).getLsbD 2 = false ∧
    (status s).getLsbD 3 = s.ERR ∧
    (status s).extractLsb' 4 4 = ecodeBits s.ECODE ∧
    ((status s).extractLsb' 8 6).toNat = s.N.val ∧
    (status s).extractLsb' 14 18 = 0 ∧
    (phaseBits s.PHASE).toNat ≤ 2 ∧ (ecodeBits s.ECODE).toNat ≤ 3 ∧
    exec .rdst s = .next { s with RSPD := status s, RSPV := true }) ∧
  status State.reset = 0

/-- R22: the three values of PHASE, the table of its transitions for every word the engine takes in
every phase, the phases in which a command faults instead, and reset. -/
def Obligations.PhaseTransitions : Prop :=
  (phaseBits .raw = 0 ∧ phaseBits .absorb = 1 ∧ phaseBits .done = 2) ∧
  (∀ s w rest t, Presents s w rest → step s = .next t → t.PHASE = phaseAfter w s.PHASE) ∧
  (∀ s w rest i, Presents s w rest → decode w = .ok i → phaseBad (opField w) s.PHASE →
    step s = .next (raiseFault .sequence (takeOff rest s))) ∧
  (∀ s rest t, s.host = .reset :: rest → step s = .next t → t.PHASE = .raw)

/-- R31, the "w" entries of the matrix: an element a command may not write keeps its value, and a
command that records a fault writes ERR and ECODE alone; LDH and LDW write one word, PUTB writes BUF at
N alone and, when no block completes, none of H, W, A to E and T. -/
def Obligations.CommandsWriteOnlyTheirElements : Prop :=
  ∀ i s t, exec i s = .next t →
    (∀ e, e ∉ mayWrite i → sameElement e s t) ∧
    (t.INFLIGHT = s.INFLIGHT ∧ t.host = s.host ∧ t.rspReady = s.rspReady ∧
      t.received = s.received) ∧
    ((t.ERR = s.ERR ∧ t.ECODE = s.ECODE) ∨ ∃ code, t = raiseFault code s) ∧
    (∀ idx imm32, i = .ldh idx imm32 → ∀ j : Fin 5, j.val ≠ idx.toNat → t.H[j] = s.H[j]) ∧
    (∀ idx imm32, i = .ldw idx imm32 → ∀ j : Fin 16, j.val ≠ idx.toNat → t.W[j] = s.W[j]) ∧
    (∀ imm8, i = .putb imm8 →
      (∀ j : Fin 64, j ≠ s.N → t.BUF[j] = s.BUF[j]) ∧
      (s.N ≠ 63 → sameElement .H s t ∧ sameElement .W s t ∧ sameElement .working s t))

/-- R23: no command's behaviour depends on ERR (nor on ECODE): apart from these two, every command but
RDST, which reads them, gives the same next state whatever they hold. -/
def Obligations.FaultRecordDoesNotInfluence : Prop :=
  ∀ i s err ecode, i ≠ .rdst →
    ∃ t t', exec i s = .next t ∧ exec i { s with ERR := err, ECODE := ecode } = .next t' ∧
      { t' with ERR := t.ERR, ECODE := t.ECODE } = t

/-! ## Words and encoding (00_scope.md, 30_encoding.md) -/

/-- R6: the word operators bit by bit; the rotation by 1, 5 and 30 as the formula on numbers and as the
concatenation of the two fields; addition modulo 2^32, of two terms and of several in any order. -/
def Obligations.RotationAndAddition : Prop :=
  (∀ (x y : Word) (i : Nat), (x &&& y).getLsbD i = (x.getLsbD i && y.getLsbD i) ∧
    (x ||| y).getLsbD i = (x.getLsbD i || y.getLsbD i) ∧
    (x ^^^ y).getLsbD i = (x.getLsbD i ^^ y.getLsbD i)) ∧
  (∀ n x, n = 1 ∨ n = 5 ∨ n = 30 →
    (rotl n x).toNat = (x.toNat * 2 ^ n) % 2 ^ 32 + x.toNat / 2 ^ (32 - n) ∧
    rotl n x = (x.extractLsb' 0 (32 - n) ++ x.extractLsb' (32 - n) n).setWidth 32) ∧
  (∀ x y, (add32 x y).toNat = (x.toNat + y.toNat) % 2 ^ 32) ∧
  (∀ x y z, (add32 (add32 x y) z).toNat = (x.toNat + y.toNat + z.toNat) % 2 ^ 32 ∧
    add32 x y = add32 y x ∧ add32 (add32 x y) z = add32 x (add32 y z))

/-- R62: the three fields as arithmetic on the number of the word, and the word as its fields. -/
def Obligations.CommandWordFields : Prop :=
  (∀ c : CmdWord, (opField c).toNat = c.toNat / 2 ^ 40 ∧
    (idxField c).toNat = c.toNat / 2 ^ 32 % 2 ^ 8 ∧ (dataField c).toNat = c.toNat % 2 ^ 32 ∧
    c = opField c ++ idxField c ++ dataField c ∧
    (imm8Of (dataField c)).toNat = c.toNat % 2 ^ 8) ∧
  (∀ op idx data, (cmdWord op idx data).toNat
    = op.toNat * 2 ^ 40 + idx.toNat * 2 ^ 32 + data.toNat)

/-- R67: the twelve rows, and that the decoder takes exactly the words that a row selects, each as the
command of that row and of no other. -/
def Obligations.OpcodeMapSelects : Prop :=
  opcodeMap =
    [⟨"NOP", 0x000000000000, 0xFFFFFFFFFFFF, 0⟩, ⟨"INIT", 0x010000000000, 0xFFFFFFFFFFFF, 0⟩,
     ⟨"PUTB", 0x020000000000, 0xFFFFFFFFFF00, 0⟩, ⟨"FINAL", 0x030000000000, 0xFFFFFFFFFFFF, 0⟩,
     ⟨"LDH", 0x040000000000, 0xFF0000000000, 4⟩, ⟨"LDW", 0x050000000000, 0xFF0000000000, 15⟩,
     ⟨"COMP", 0x060000000000, 0xFFFFFFFFFFFF, 0⟩, ⟨"RDH", 0x070000000000, 0xFF00FFFFFFFF, 4⟩,
     ⟨"RDW", 0x080000000000, 0xFF00FFFFFFFF, 15⟩, ⟨"RDB", 0x090000000000, 0xFF00FFFFFFFF, 19⟩,
     ⟨"RDL", 0x0A0000000000, 0xFF00FFFFFFFF, 1⟩, ⟨"RDST", 0x0B0000000000, 0xFFFFFFFFFFFF, 0⟩] ∧
  ∀ c : CmdWord,
    (∀ r ∈ opcodeMap, (r.selects c = true ↔
      c &&& r.mask = r.word ∧ (idxField c).toNat ≤ r.lastIdx)) ∧
    ((∃ i, decode c = .ok i) ↔ ∃ r ∈ opcodeMap, r.selects c = true) ∧
    (∀ i, decode c = .ok i → ∀ r ∈ opcodeMap, (r.selects c = true ↔ r.mnemonic = i.mnemonic))

/-- Every well-formed command is read back from its word, with every operand. -/
def Obligations.DecodeOfEncode : Prop := ∀ i, WellFormed i → decode (encode i) = .ok i

/-- Every word that decodes is the word of the command it decodes to, and that command is
well-formed: no two words stand for one command. -/
def Obligations.EncodeOfDecode : Prop :=
  ∀ c i, decode c = .ok i → WellFormed i ∧ encode i = c

/-- Words written out from R67 and V2.2, one for each format and the last index of each range. -/
def Obligations.DecodedSampleWords : Prop :=
  decode 0x000000000000 = .ok .nop ∧ decode 0x010000000000 = .ok .init ∧
  decode 0x0200000000FF = .ok (.putb 0xFF) ∧ decode 0x030000000000 = .ok .final ∧
  decode 0x0404C3D2E1F0 = .ok (.ldh 4 0xC3D2E1F0) ∧
  decode 0x050FFFFFFFFF = .ok (.ldw 15 0xFFFFFFFF) ∧ decode 0x060000000000 = .ok .comp ∧
  decode 0x070400000000 = .ok (.rdh 4) ∧ decode 0x080F00000000 = .ok (.rdw 15) ∧
  decode 0x091300000000 = .ok (.rdb 19) ∧ decode 0x0A0100000000 = .ok (.rdl 1) ∧
  decode 0x0B0000000000 = .ok .rdst ∧ decode 0x040500000000 = .error .illegalField ∧
  decode 0x0C0000000000 = .error .illegalOpcode

/-! ## The compression (40_compression.md) -/

/-- R87, R89: the stage function and the stage constant of every round. -/
def Obligations.StageFunctionsAndConstants : Prop :=
  ∀ t b c d,
    (t ≤ 19 → stageF t b c d = (b &&& (c ^^^ d)) ^^^ d ∧ stageK t = 0x5A827999) ∧
    (20 ≤ t → t ≤ 39 → stageF t b c d = b ^^^ c ^^^ d ∧ stageK t = 0x6ED9EBA1) ∧
    (40 ≤ t → t ≤ 59 →
      stageF t b c d = (b &&& c) ||| (b &&& d) ||| (c &&& d) ∧ stageK t = 0x8F1BBCDC) ∧
    (60 ≤ t → t ≤ 79 → stageF t b c d = b ^^^ c ^^^ d ∧ stageK t = 0xCA62C1D6)

/-- R88: the equivalent forms, and the per-bit truth table as its eight rows (b, c, d -> stage 0,
stages 1 and 3, stage 2). -/
def Obligations.StageFunctionForms : Prop :=
  ∀ t b c d,
    (t ≤ 19 → stageF t b c d = (b &&& c) ||| (~~~b &&& d)) ∧
    (40 ≤ t → t ≤ 59 → stageF t b c d = ((b ||| c) &&& d) ||| (b &&& c)) ∧
    ∀ i < 32,
      (b.getLsbD i, c.getLsbD i, d.getLsbD i, (stageF 0 b c d).getLsbD i,
        (stageF 20 b c d).getLsbD i, (stageF 60 b c d).getLsbD i, (stageF 40 b c d).getLsbD i) ∈
      [(false, false, false, false, false, false, false),
       (false, false, true, true, true, true, false),
       (false, true, false, false, true, true, false),
       (false, true, true, true, false, false, true),
       (true, false, false, false, true, true, false),
       (true, false, true, false, false, false, true),
       (true, true, false, true, false, false, true),
       (true, true, true, true, true, true, true)]

/-- R93 and R98: START; FOLD, which the sequencer makes when T = 80 and a ROUND otherwise. -/
def Obligations.StartAndFoldSteps : Prop :=
  (∀ s,
    startStep s =
      { s with A := s.H[0], B := s.H[1], C := s.H[2], D := s.H[3], E := s.H[4], T := 0 } ∧
    foldStep s =
      { s with H := #v[s.H[0] + s.A, s.H[1] + s.B, s.H[2] + s.C, s.H[3] + s.D, s.H[4] + s.E] }) ∧
  (∀ s i more, s.INFLIGHT = .rounds i more →
    (s.T = 80 → microStep s = .next (foldEdge i more s)) ∧
    (s.T ≠ 80 → microStep s = .next (roundStep s))) ∧
  (∀ i more s, (foldEdge i more s).H = (foldStep s).H ∧ (foldEdge i more s).A = s.A ∧
    (foldEdge i more s).B = s.B ∧ (foldEdge i more s).C = s.C ∧ (foldEdge i more s).D = s.D ∧
    (foldEdge i more s).E = s.E ∧ (foldEdge i more s).T = s.T)

/-- R94: ROUND, with the ring update of R90 written out, that it is enabled for T <= 79 alone, and the
worked example of its first round. -/
def Obligations.RoundStepRule : Prop :=
  (∀ s (h : s.T.val < 80),
    let t := s.T.val
    let W := if 16 ≤ t then
        s.W.set (t % 16) ((s.W[(t + 13) % 16]'(by omega) ^^^ s.W[(t + 8) % 16]'(by omega)
          ^^^ s.W[(t + 2) % 16]'(by omega) ^^^ s.W[t % 16]'(by omega)).rotateLeft 1) (by omega)
      else s.W
    roundStep s =
      { s with
        W := W
        A := s.A.rotateLeft 5 + stageF t s.B s.C s.D + s.E + stageK t + W[t % 16]'(by omega)
        B := s.A, C := s.B.rotateLeft 30, D := s.C, E := s.D, T := ⟨t + 1, by omega⟩ }) ∧
  (∀ s, s.T = 80 → roundStep s = s) ∧
  (stageF 0 0xEFCDAB89 0x98BADCFE 0x10325476 = 0x98BADCFE ∧ stageK 0 = 0x5A827999 ∧
    rotl 5 0x67452301 = 0xE8A4602C) ∧
  (∀ s, s.H = iv → s.W[0] = 0x61626380 →
    (roundStep (startStep s)).A = 0x0116FC33 ∧ (roundStep (startStep s)).B = 0x67452301 ∧
    (roundStep (startStep s)).C = 0x7BF36AE2 ∧ (roundStep (startStep s)).D = 0x98BADCFE ∧
    (roundStep (startStep s)).E = 0x10325476 ∧ (roundStep (startStep s)).T = 1)

/-- R92: the recurrence defines a schedule for every block; the round input word of every round is the
schedule word, and just after round `t >= 15` the ring holds the sixteen most recent schedule words. -/
def Obligations.RingHoldsSchedule : Prop :=
  (∀ block, IsSchedule block (schedule block)) ∧
  ∀ s S, IsSchedule s.W S → ∀ t < 80,
    (roundsStep t (startStep s)).T.val = t ∧
    roundWord (roundsStep t (startStep s)).W t = S t ∧
    (15 ≤ t → ∀ j, t - 15 ≤ j → j ≤ t →
      (roundsStep (t + 1) (startStep s)).W[j % 16]'(Nat.mod_lt _ (by decide)) = S j)

/-- R99, R100: `Compress()` is START, eighty ROUNDs and FOLD; as a pure function of H and W, every
element it writes and nothing else written. -/
def Obligations.CompressIsPureFunction : Prop :=
  (∀ s, compress s = foldStep (roundsStep 80 (startStep s))) ∧
  ∀ s S, IsSchedule s.W S →
    compress s =
      { s with
        H := Vector.ofFn fun j : Fin 5 => s.H[j] + (workingAt s.H S 80)[j]
        W := Vector.ofFn fun j : Fin 16 => S (64 + j.val)
        A := (workingAt s.H S 80)[0]
        B := (workingAt s.H S 80)[1]
        C := (workingAt s.H S 80)[2]
        D := (workingAt s.H S 80)[3]
        E := (workingAt s.H S 80)[4]
        T := 80 }

/-- R101: H keeps its value from START until FOLD, and FOLD changes the five words together. -/
def Obligations.ChainingStateHeldUntilFold : Prop :=
  (∀ s n, (roundsStep n (startStep s)).H = s.H) ∧
  (∀ s t, (busyO s = true → (∀ w, s.INFLIGHT ≠ .accepted w) → s.T.val < 80 →
    microStep s = .next t → t.H = s.H)) ∧
  (∀ s, (compress s).H =
    #v[s.H[0] + (roundsStep 80 (startStep s)).A, s.H[1] + (roundsStep 80 (startStep s)).B,
       s.H[2] + (roundsStep 80 (startStep s)).C, s.H[3] + (roundsStep 80 (startStep s)).D,
       s.H[4] + (roundsStep 80 (startStep s)).E])

/-- R103: LDH, its word, its faults and its effect. -/
def Obligations.LdhLoadsChainingWord : Prop :=
  (∀ idx imm32, encode (.ldh idx imm32) = cmdWord 0x04 idx imm32) ∧
  WordEffect 0x04 (fun idx data s =>
    if idx.toNat > 4 then raiseFault .illegalField s
    else if s.PHASE = .absorb then raiseFault .sequence s
    else { s with H := s.H.setIfInBounds idx.toNat data, PHASE := .raw }) ∧
  (∀ idx imm32 s, idx.toNat ≤ 4 → s.PHASE ≠ .absorb →
    exec (.ldh idx imm32) s =
      .next { s with H := s.H.setIfInBounds idx.toNat imm32, PHASE := .raw })

/-- R104: LDW, its word, its faults and its effect. -/
def Obligations.LdwLoadsBlockWord : Prop :=
  (∀ idx imm32, encode (.ldw idx imm32) = cmdWord 0x05 idx imm32) ∧
  WordEffect 0x05 (fun idx data s =>
    if idx.toNat > 15 then raiseFault .illegalField s
    else if s.PHASE = .absorb then raiseFault .sequence s
    else { s with W := s.W.setIfInBounds idx.toNat data, PHASE := .raw }) ∧
  (∀ idx imm32 s, idx.toNat ≤ 15 → s.PHASE ≠ .absorb →
    exec (.ldw idx imm32) s =
      .next { s with W := s.W.setIfInBounds idx.toNat imm32, PHASE := .raw })

/-- R105: COMP, its word, its faults and its effect. -/
def Obligations.CompCompressesBlock : Prop :=
  encode .comp = 0x060000000000 ∧
  WordEffect 0x06 (fun idx data s =>
    if idx ≠ 0 ∨ data ≠ 0 then raiseFault .illegalField s
    else if s.PHASE = .absorb then raiseFault .sequence s
    else { compress s with PHASE := .raw }) ∧
  (∀ s, s.PHASE ≠ .absorb → exec .comp s = .next { compress s with PHASE := .raw })

/-- R106: the raw path over the padded blocks of a message leaves in H the words that the digest path
leaves; it ends in RAW with LEN and N as before, the digest path in DONE with LEN the length. -/
def Obligations.RawPathEqualsDigestPath : Prop :=
  ∀ m s, m.length < 2 ^ 61 → idle s = true → responsesTaken s = true → s.PHASE ≠ .absorb →
    ∃ t u,
      run (waitingSteps s + (rawCommands m).length) (withCommands (rawCommands m) s) = .next t ∧
      run (waitingSteps s + (digestCommands m).length) (withCommands (digestCommands m) s)
        = .next u ∧
      t.H = u.H ∧ t.PHASE = .raw ∧ t.LEN = s.LEN ∧ t.N = s.N ∧
      u.PHASE = .done ∧ u.LEN.toNat = m.length

/-! ## The controller (41_digest_controller.md) -/

/-- R113: the sixteen words of `Pack` as numbers, and the rule's example. -/
def Obligations.PackBigEndian : Prop :=
  (∀ (M : Vector Byte 64) (i : Fin 16),
    (packWords M)[i].toNat = (M[4 * i.val]).toNat * 2 ^ 24 + (M[4 * i.val + 1]).toNat * 2 ^ 16
      + (M[4 * i.val + 2]).toNat * 2 ^ 8 + (M[4 * i.val + 3]).toNat) ∧
  (∀ M : Vector Byte 64, M[0] = 0x61 → M[1] = 0x62 → M[2] = 0x63 → M[3] = 0x80 →
    (packWords M)[0] = 0x61626380) ∧
  (∀ M s, packInto M s = { s with W := packWords M })

/-- R117 with R118: the bit length, and its eight bytes, most significant first. -/
def Obligations.LengthFieldBytes : Prop :=
  (∀ len : Len, (bitLength len).toNat = len.toNat * 8 % 2 ^ 64 ∧
    bitLength len = len.extractLsb' 0 61 ++ (0 : BitVec 3) ∧
    (∀ i : Fin 8, (lenField len)[i] = (bitLength len).extractLsb' (56 - 8 * i.val) 8)) ∧
  (∀ (len : Len) (i : Fin 8), (lenField len)[i].toNat
    = len.toNat * 8 % 2 ^ 64 / 2 ^ (56 - 8 * i.val) % 2 ^ 8) ∧
  lenField 3 = #v[0, 0, 0, 0, 0, 0, 0, 0x18]

/-- R119 and R120: every byte of the padded blocks; no byte of BUF at index n or above enters them; of
two blocks the first is compressed first. -/
def Obligations.PaddedBlockBytes : Prop :=
  (∀ (buf : Vector Byte 64) (n : Nat) (lf : Vector Byte 8) (h55 : n ≤ 55),
    (∀ (j : Nat) (h : j < n), (padOne buf n lf)[j]'(by omega) = buf[j]'(by omega)) ∧
    (padOne buf n lf)[n]'(by omega) = 0x80 ∧
    (∀ (j : Nat) (h : n < j ∧ j ≤ 55), (padOne buf n lf)[j]'(by omega) = 0) ∧
    (∀ i : Fin 8, (padOne buf n lf)[56 + i.val] = lf[i])) ∧
  (∀ (buf : Vector Byte 64) (n : Nat) (h56 : 56 ≤ n ∧ n ≤ 63),
    (∀ (j : Nat) (h : j < n), (padFirst buf n)[j]'(by omega) = buf[j]'(by omega)) ∧
    (padFirst buf n)[n]'(by omega) = 0x80 ∧
    (∀ (j : Nat) (h : n < j ∧ j ≤ 63), (padFirst buf n)[j]'(by omega) = 0)) ∧
  (∀ lf : Vector Byte 8,
    (∀ (j : Nat) (h : j ≤ 55), (padSecond lf)[j]'(by omega) = 0) ∧
    (∀ i : Fin 8, (padSecond lf)[56 + i.val] = lf[i])) ∧
  (∀ (buf buf' : Vector Byte 64) (n : Nat) (lf : Vector Byte 8),
    (∀ j : Fin 64, j.val < n → buf[j] = buf'[j]) →
    padOne buf n lf = padOne buf' n lf ∧ padFirst buf n = padFirst buf' n) ∧
  (∀ s, 56 ≤ s.N.val → finalBlocks s =
    compress (packInto (padSecond (lenField s.LEN)) (compress (packInto (padFirst s.BUF s.N.val) s))))

/-- R112: INIT, its word, its fault and its effect, in every phase. -/
def Obligations.InitStartsMessage : Prop :=
  encode .init = 0x010000000000 ∧
  WordEffect 0x01 (fun idx data s =>
    if idx ≠ 0 ∨ data ≠ 0 then raiseFault .illegalField s
    else { s with
           H := #v[0x67452301, 0xEFCDAB89, 0x98BADCFE, 0x10325476, 0xC3D2E1F0]
           LEN := 0, N := 0, PHASE := .absorb }) ∧
  (∀ s, exec .init s =
    .next { s with
            H := #v[0x67452301, 0xEFCDAB89, 0x98BADCFE, 0x10325476, 0xC3D2E1F0]
            LEN := 0, N := 0, PHASE := .absorb })

/-- R114: PUTB, its word, its faults and its effect, with and without a completed block. -/
def Obligations.PutbAbsorbsByte : Prop :=
  (∀ imm8 : Byte, encode (.putb imm8) = cmdWord 0x02 0 (imm8.setWidth 32)) ∧
  WordEffect 0x02 (fun idx data s =>
    let BUF := s.BUF.set s.N (data.setWidth 8)
    if idx ≠ 0 ∨ data.extractLsb' 8 24 ≠ 0 then raiseFault .illegalField s
    else if s.PHASE ≠ .absorb then raiseFault .sequence s
    else if s.N = 63 then
      { compress { s with BUF := BUF, W := packWords BUF } with LEN := s.LEN + 1, N := 0 }
    else { s with BUF := BUF, LEN := s.LEN + 1, N := s.N + 1 }) ∧
  (∀ imm8 s, s.PHASE = .absorb → s.N = 63 →
    exec (.putb imm8) s =
      .next { compress { s with BUF := s.BUF.set 63 imm8, W := packWords (s.BUF.set 63 imm8) } with
              LEN := s.LEN + 1, N := 0 }) ∧
  (∀ imm8 s, s.PHASE = .absorb → s.N ≠ 63 →
    exec (.putb imm8) s =
      .next { s with BUF := s.BUF.set s.N imm8, LEN := s.LEN + 1, N := s.N + 1 })

/-- R116: FINAL, its word, its faults and its effect, with one and with two final blocks. -/
def Obligations.FinalPadsAndFinishes : Prop :=
  encode .final = 0x030000000000 ∧
  WordEffect 0x03 (fun idx data s =>
    if idx ≠ 0 ∨ data ≠ 0 then raiseFault .illegalField s
    else if s.PHASE ≠ .absorb then raiseFault .sequence s
    else if s.N.val ≤ 55 then
      { compress { s with W := packWords (padOne s.BUF s.N.val (lenField s.LEN)) } with
        N := 0, PHASE := .done }
    else
      { compress { compress { s with W := packWords (padFirst s.BUF s.N.val) } with
                   W := packWords (padSecond (lenField s.LEN)) } with
        N := 0, PHASE := .done }) ∧
  (∀ s, s.PHASE = .absorb → s.N.val ≤ 55 →
    exec .final s =
      .next { compress { s with W := packWords (padOne s.BUF s.N.val (lenField s.LEN)) } with
              N := 0, PHASE := .done }) ∧
  (∀ s, s.PHASE = .absorb → 56 ≤ s.N.val →
    exec .final s =
      .next { compress { compress { s with W := packWords (padFirst s.BUF s.N.val) } with
                         W := packWords (padSecond (lenField s.LEN)) } with
              N := 0, PHASE := .done })

/-- R115: INIT starts the empty message; in a state that holds a message in progress PUTB appends its
byte, and every other word but INIT and FINAL (a read, a NOP, a word that faults), a hand-over and a
wait leave the message as it is; so after INIT and any such words LEN, N, the tail in BUF and H are those
of the bytes absorbed. The last clause is over a run of as many steps as there are words, one more for a
response waiting at the start and one for each response taken before a further word. -/
def Obligations.AbsorbInvariant : Prop :=
  (∀ s, ∃ t, exec .init s = .next t ∧ Absorbing [] t) ∧
  (∀ m b s, Absorbing m s → ∃ t, exec (.putb b) s = .next t ∧ Absorbing (m ++ [b]) t) ∧
  (∀ m s w rest, Absorbing m s → Presents s w rest → insideMessage w →
    ∃ t, step s = .next t ∧ Absorbing (m ++ absorbed [w]) t) ∧
  (∀ m s, Absorbing m s → idle s = true → (∀ rest, s.host ≠ .reset :: rest) →
    (∀ w rest, ¬ Presents s w rest) → ∃ t, step s = .next t ∧ Absorbing m t) ∧
  (∀ (ws : List CmdWord) (s : State), idle s = true → (∀ w ∈ ws, insideMessage w) →
    (s.rspReady = true ∨ (s.RSPV = false ∧ ∀ w ∈ ws.dropLast, responds w = false)) →
    ∃ t,
      run (waitingSteps s + (ws.length + 1) + responseCount ws.dropLast)
        { s with host := (encode .init :: ws).map .command ++ s.host } = .next t ∧
      Absorbing (absorbed ws) t)

/-- The padded message of the reference is the blocks of R119 and R120: the message's own full blocks,
then one or two final blocks by the length of the tail; so many compressions a message takes (R121,
R123). -/
def Obligations.PaddedMessageBlocks : Prop :=
  ∀ (m : List Byte) (buf : Vector Byte 64),
    (∀ j : Fin 64, j.val < m.length % 64 → m[64 * (m.length / 64) + j.val]? = some buf[j]) →
    (∀ q < m.length / 64, blockOf (paddedMessage m) q = blockOf m q) ∧
    (m.length % 64 ≤ 55 →
      (paddedMessage m).length = 64 * (m.length / 64 + 1) ∧
      blockOf (paddedMessage m) (m.length / 64)
        = padOne buf (m.length % 64) (lenField (BitVec.ofNat 64 m.length))) ∧
    (56 ≤ m.length % 64 →
      (paddedMessage m).length = 64 * (m.length / 64 + 2) ∧
      blockOf (paddedMessage m) (m.length / 64) = padFirst buf (m.length % 64) ∧
      blockOf (paddedMessage m) (m.length / 64 + 1)
        = padSecond (lenField (BitVec.ofNat 64 m.length)))

/-- R12: INIT, one PUTB per byte and FINAL, from any state with no command in flight, end in DONE with
H the SHA-1 digest of the bytes, whatever the state held before. -/
def Obligations.DigestContract : Prop :=
  ∀ m s, m.length < 2 ^ 61 → idle s = true → responsesTaken s = true →
    ∃ t,
      run (waitingSteps s + (m.length + 2)) (withCommands (digestCommands m) s) = .next t ∧
      t.PHASE = .done ∧ t.H = digest m ∧ t.LEN.toNat = m.length ∧
      t.ERR = s.ERR ∧ t.ECODE = s.ECODE ∧ t.host = s.host

/-- R182, with R154, R159 and R49: between INIT and FINAL a word that faults, malformed or barred in
ABSORB, is a word without effect but for the fault record, and a read or a NOP is without effect on the
message: the digest is that of the bytes absorbed, ERR is the only sign of the faults, and one response
is received for every read (and for a response waiting at the start). -/
def Obligations.DigestDespiteFaults : Prop :=
  ∀ (ws : List CmdWord) (s : State),
    (absorbed ws).length < 2 ^ 61 → idle s = true → (∀ w ∈ ws, insideMessage w) →
    (s.rspReady = true ∨ (s.RSPV = false ∧ ∀ w ∈ ws, responds w = false)) →
    ∃ t,
      run (waitingSteps s + (ws.length + 2) + responseCount ws)
        { s with host := (encode .init :: ws ++ [encode .final]).map .command ++ s.host }
        = .next t ∧
      t.PHASE = .done ∧ t.H = digest (absorbed ws) ∧ t.LEN.toNat = (absorbed ws).length ∧
      t.ERR = (s.ERR || ws.any faultsInAbsorb) ∧
      t.received.length = s.received.length + waitingSteps s + responseCount ws

/-- R124: what FINAL leaves in H, W, the working variables and T depends on H, N, LEN and the N valid
bytes of BUF alone: not on stale bytes of BUF, not on W, not on A to E. -/
def Obligations.StaleBytesNeverLeak : Prop :=
  ∀ s u s' u', s.PHASE = .absorb → u.PHASE = .absorb → s.H = u.H → s.N = u.N → s.LEN = u.LEN →
    (∀ j : Fin 64, j < s.N → s.BUF[j] = u.BUF[j]) →
    exec .final s = .next s' → exec .final u = .next u' →
    s'.H = u'.H ∧ s'.W = u'.W ∧ sameElement .working s' u'

/-! ## Read-out and system commands (42_readout_and_system.md) -/

/-- R131: NOP. -/
def Obligations.NopDoesNothing : Prop :=
  encode .nop = 0x000000000000 ∧
  WordEffect 0x00 (fun idx data s =>
    if idx ≠ 0 ∨ data ≠ 0 then raiseFault .illegalField s else s) ∧
  (∀ s, exec .nop s = .next s)

/-- R132: RDH. -/
def Obligations.RdhRespondsChainingWord : Prop :=
  (∀ idx, encode (.rdh idx) = cmdWord 0x07 idx 0) ∧
  WordEffect 0x07 (fun idx data s =>
    if idx.toNat > 4 ∨ data ≠ 0 then raiseFault .illegalField s
    else { s with RSPD := s.H.getD idx.toNat 0, RSPV := true }) ∧
  (∀ (idx : Byte) (s : State) (h : idx.toNat ≤ 4),
    exec (.rdh idx) s = .next { s with RSPD := s.H[idx.toNat]'(by omega), RSPV := true })

/-- R133: RDW. -/
def Obligations.RdwRespondsRingWord : Prop :=
  (∀ idx, encode (.rdw idx) = cmdWord 0x08 idx 0) ∧
  WordEffect 0x08 (fun idx data s =>
    if idx.toNat > 15 ∨ data ≠ 0 then raiseFault .illegalField s
    else { s with RSPD := s.W.getD idx.toNat 0, RSPV := true }) ∧
  (∀ (idx : Byte) (s : State) (h : idx.toNat ≤ 15),
    exec (.rdw idx) s = .next { s with RSPD := s.W[idx.toNat]'(by omega), RSPV := true })

/-- R134, R138: the twenty digest bytes as numbers, and `digest_o` as the five words and as the bytes. -/
def Obligations.DigestBytesOfOutput : Prop :=
  ∀ s,
    (∀ j : Fin 20, (digestByte s j).toNat
      = (s.H[j.val / 4]'(by omega)).toNat / 2 ^ (24 - 8 * (j.val % 4)) % 2 ^ 8) ∧
    digestO s = s.H[0] ++ s.H[1] ++ s.H[2] ++ s.H[3] ++ s.H[4] ∧
    (∀ j : Fin 20, (digestO s).extractLsb' (152 - 8 * j.val) 8 = digestByte s j)

/-- R135: RDB, the byte zero-extended. -/
def Obligations.RdbRespondsDigestByte : Prop :=
  (∀ idx, encode (.rdb idx) = cmdWord 0x09 idx 0) ∧
  WordEffect 0x09 (fun idx data s =>
    if h : idx.toNat > 19 ∨ data ≠ 0 then raiseFault .illegalField s
    else { s with RSPD := (0 : BitVec 24) ++ digestByte s ⟨idx.toNat, by omega⟩, RSPV := true }) ∧
  (∀ (idx : Byte) (s : State) (h : idx.toNat ≤ 19),
    exec (.rdb idx) s =
      .next { s with RSPD := (0 : BitVec 24) ++ digestByte s ⟨idx.toNat, by omega⟩, RSPV := true })

/-- R136: RDL, the low half for index 0 and the high half for index 1. -/
def Obligations.RdlRespondsLengthHalf : Prop :=
  (∀ idx, encode (.rdl idx) = cmdWord 0x0A idx 0) ∧
  WordEffect 0x0A (fun idx data s =>
    if idx.toNat > 1 ∨ data ≠ 0 then raiseFault .illegalField s
    else if idx = 0 then { s with RSPD := s.LEN.extractLsb' 0 32, RSPV := true }
    else { s with RSPD := s.LEN.extractLsb' 32 32, RSPV := true }) ∧
  (∀ s, exec (.rdl 0) s = .next { s with RSPD := s.LEN.extractLsb' 0 32, RSPV := true } ∧
    exec (.rdl 1) s = .next { s with RSPD := s.LEN.extractLsb' 32 32, RSPV := true })

/-- R137: RDST; it does not clear ERR. -/
def Obligations.RdstRespondsStatus : Prop :=
  encode .rdst = 0x0B0000000000 ∧
  WordEffect 0x0B (fun idx data s =>
    if idx ≠ 0 ∨ data ≠ 0 then raiseFault .illegalField s
    else { s with RSPD := status s, RSPV := true }) ∧
  (∀ s, exec .rdst s = .next { s with RSPD := status s, RSPV := true }) ∧
  (∀ s, (status s).toNat = (phaseBits s.PHASE).toNat + 8 * (if s.ERR then 1 else 0)
    + 16 * (ecodeBits s.ECODE).toNat + 256 * s.N.val)

/-- R49: a read command writes RSP alone, and the same read made again, the response having been
taken, gives the same word. -/
def Obligations.ReadsChangeOnlyResponse : Prop :=
  ∀ i s, isRead i = true → WellFormed i →
    ∃ v, exec i s = .next { s with RSPD := v, RSPV := true } ∧
      exec i (handOver (rspPush v s)) = .next (rspPush v (handOver (rspPush v s)))

/-- R28, R53, R80: the host that reads the digest by RDDIG receives the five words of H in order, by
RDDIGB the twenty digest bytes in order; of the engine's other elements none is changed but RSPD, and the
run then has ended. That RSPD still holds the last response with RSPV = 0 is the model's reading
(DEDUCED, log entry 11); the spec gives that value no meaning (U9). -/
def Obligations.ReadOutDeliversDigest : Prop :=
  ∀ s, canAccept s = true → s.host = [] → s.rspReady = true →
    (∃ t, run 10 (withCommands rddig s) = .next t ∧ ended t = true ∧
      t = { s with RSPD := s.H[4], received := s.received ++ s.H.toList }) ∧
    (∃ t, run 40 (withCommands rddigb s) = .next t ∧ ended t = true ∧
      t = { s with
            RSPD := (digestByte s 19).setWidth 32
            received := s.received
              ++ (List.finRange 20).map fun j => (digestByte s j).setWidth 32 })

/-- R140: H does not change while PHASE stays DONE; NOP and the reads are the only commands that
neither fault nor leave DONE; PUTB and FINAL there fault and change nothing but the fault record. -/
def Obligations.DigestHeldWhileDone : Prop :=
  (∀ s t, EngineInv s → s.PHASE = .done → step s = .next t → t.PHASE = .done → t.H = s.H) ∧
  (∀ i s t, s.PHASE = .done → exec i s = .next t → t.PHASE = .done →
    i = .nop ∨ isRead i = true ∨ ∃ code, t = raiseFault code s) ∧
  (∀ imm8 s, s.PHASE = .done → exec (.putb imm8) s = .next (raiseFault .sequence s) ∧
    exec .final s = .next (raiseFault .sequence s))

/-- R141: the rendering has forty lower-case hexadecimal characters, and is the two-digit form of the
twenty digest bytes in order. -/
def Obligations.HexRendering : Prop :=
  ∀ s, (hex40 s.H).length = 40 ∧ (∀ c ∈ hex40 s.H, c ∈ hexDigits) ∧
    hex40 s.H = ((List.finRange 20).flatMap fun j => hexByte (digestByte s j)) ∧
    hexWord 0xA9993E36 = ['a', '9', '9', '9', '3', 'e', '3', '6'] ∧
    hexWord 0x0000000F = ['0', '0', '0', '0', '0', '0', '0', 'f']

/-! ## Faults (60_exceptions.md) -/

/-- R148: what a fault writes; the rest is kept, no response is pushed, the engine takes the next
command, `err_o` follows ERR, and no command clears ERR or changes the first code. -/
def Obligations.FaultEffect : Prop :=
  (∀ code s, s.ERR = false → raiseFault code s = { s with ERR := true, ECODE := some code }) ∧
  (∀ code s, s.ERR = true → raiseFault code s = s) ∧
  (∀ code s, canAccept (raiseFault code s) = canAccept s) ∧
  (∀ s, errO s = s.ERR) ∧
  (∀ i s t, s.ERR = true → exec i s = .next t → t.ERR = true ∧ t.ECODE = s.ECODE)

/-- R68 with R149, R150, R151 and R152: every 48-bit word the engine takes, in every state: the first
check that fails decides the fault; a word that passes all three is performed, with no fault. -/
def Obligations.DecodeAndFaultOrder : Prop :=
  ∀ s op idx data rest, Presents s (cmdWord op idx data) rest →
    (op.toNat > 0x0B → step s = .next (raiseFault .illegalOpcode (takeOff rest s))) ∧
    (op.toNat ≤ 0x0B → fieldBad op idx data →
      step s = .next (raiseFault .illegalField (takeOff rest s))) ∧
    (op.toNat ≤ 0x0B → ¬ fieldBad op idx data → phaseBad op s.PHASE →
      step s = .next (raiseFault .sequence (takeOff rest s))) ∧
    (op.toNat ≤ 0x0B → ¬ fieldBad op idx data → ¬ phaseBad op s.PHASE →
      ∃ i t, decode (cmdWord op idx data) = .ok i ∧ step s = exec i (takeOff rest s) ∧
        exec i (takeOff rest s) = .next t ∧ t.ERR = s.ERR ∧ t.ECODE = s.ECODE)

/-- R24, R156: a step that is not a reset keeps ERR and ECODE once ERR is set; where it sets ERR it
records the code of that fault. -/
def Obligations.FirstFaultKept : Prop :=
  ∀ s t, (∀ rest, s.host ≠ .reset :: rest) → step s = .next t →
    (s.ERR = true → t.ERR = true ∧ t.ECODE = s.ECODE) ∧
    (s.ERR = false → t.ERR = true → ∃ code, t.ECODE = some code) ∧
    (s.ERR = false → t.ERR = false → t.ECODE = s.ECODE)

/-- R154: nothing stops the engine: every command in every state, every step and every clock edge, with
any pins and any number of micro-steps at it, give a next state. For a term with an index out of range,
which no word decodes to, the next state is the model's choice (DESIGN CHOICE, log entry 13). -/
def Obligations.EngineNeverStops : Prop :=
  (∀ i s, ∃ t, exec i s = .next t) ∧ (∀ s, ∃ t, step s = .next t) ∧
  (∀ k p s, ∃ t, clockEdge k p s = .next t)

/-! ## The port and the micro-step view (10_state.md, 70_reset_and_hazards.md) -/

/-- R53, R68: when the word the engine takes decodes to `i`, the step is `exec i` on the state with that
word taken off the host's list. The second clause is the model's: `withFetchWord` presents a table word
to an engine made able to take it, RSPV and INFLIGHT emptied, and the next step runs it (DEDUCED, log
entries 3 and 14). R166: with no action of the host and no response waiting, the engine holds all
state. -/
def Obligations.StepRunsDecodedCommand : Prop :=
  (∀ s w rest i, Presents s w rest → decode w = .ok i → step s = exec i (takeOff rest s)) ∧
  (∀ (s : State) (nbits w : Nat) (i : Instr), decodeTableWord nbits w = some i →
    step (s.withFetchWord nbits w) = exec i { s with RSPV := false, INFLIGHT := .idle }) ∧
  (∀ s, canAccept s = true → s.host = [] → step s = .next s)

/-- R176: when `cmd_ready` is 1; a word is transferred at an edge exactly when `cmd_valid` and
`cmd_ready`, and the word present at that edge is the one taken; at every other edge the command
inputs change nothing. That nothing of the accepted word is performed at the accepting edge itself is the
model's reading of R29 and R183 (DEDUCED, log entry 20), so the basis is derived. -/
def Obligations.CommandHandshake : Prop :=
  (∀ rst s, cmdReady rst s = true ↔ rst = false ∧ s.INFLIGHT = .idle ∧ s.RSPV = false) ∧
  (∀ k p s, p.cmdValid = true → cmdReady p.rst s = true →
    clockEdge k p s = .next (withInflight (.accepted p.cmdWord) s)) ∧
  (∀ k p s v w, cmdReady p.rst s = false →
    clockEdge k p s = clockEdge k { p with cmdValid := v, cmdWord := w } s) ∧
  (∀ k p s, p.cmdValid = false → cmdReady p.rst s = true → clockEdge k p s = .next s)

/-- R177: a waiting response is held and blocks acceptance for as many edges as `rsp_ready` and `rst`
stay low; an edge with `rsp_ready` hands it over. That RSPD keeps its value with RSPV = 0 after the
hand-over is the model's reading (DEDUCED, log entry 11), so the basis is derived. -/
def Obligations.ResponseBlocksUntilTaken : Prop :=
  ∀ s, s.INFLIGHT = .idle → s.RSPV = true →
    cmdReady false s = false ∧ rspValid false s = true ∧ rspData s = s.RSPD ∧
    (∀ k ps, (∀ p ∈ ps, p.rst = false ∧ p.rspReady = false) → edges k ps s = .next s) ∧
    (∀ k p, p.rst = false → p.rspReady = true →
      clockEdge k p s = .next { s with RSPV := false, received := s.received ++ [s.RSPD] })

/-- R10, R99: the micro-sequence of an accepted word and the one atomic command give the same state,
for every word and every state. What INFLIGHT holds and which of the two views is the step is the model's
choice (DESIGN CHOICE, log entry 2). -/
def Obligations.MicroStepsRefineCommand : Prop :=
  ∀ s w rest, Presents s w rest →
    completeInflight (withInflight (.accepted w) (takeOff rest s)) = step s

/-- R183 asks that an accepted command completes; the count is the model's: a command with `k`
compressions is in flight for exactly `1 + 82 * k` micro-steps, whatever the data (DESIGN CHOICE, log
entry 12, after the informative R184; a micro-step is no clock cycle). A word that does not decode
completes at its first micro-step. -/
def Obligations.CommandCompletesInBoundedSteps : Prop :=
  (∀ s w i, canAccept s = true → decode w = .ok i →
    (∀ n < 1 + 82 * compressions i s, ∃ t,
      microSteps n (withInflight (.accepted w) s) = .next t ∧ busyO t = true) ∧
    (∃ t, microSteps (1 + 82 * compressions i s) (withInflight (.accepted w) s) = .next t ∧
      busyO t = false)) ∧
  (∀ s w code, canAccept s = true → decode w = .error code →
    busyO (withInflight (.accepted w) s) = true ∧
    ∃ t, microSteps 1 (withInflight (.accepted w) s) = .next t ∧ busyO t = false)

/-- R183, R121: the duration formula, with the two OPEN parameters opaque (log entry 12), and the number
of compressions of each of the twelve commands in every phase: 1 for COMP, 1 for a PUTB that completes a
block, 1 or 2 for FINAL by N, 0 in every other case; it depends on the phase and on N alone. -/
def Obligations.DurationOfCommands : Prop :=
  (∀ i s, commandCycles i s
    = Config.cyclesOther + compressions i s * Config.cyclesPerCompress ∧ 1 ≤ commandCycles i s) ∧
  (∀ s, s.PHASE = .absorb → compressions .final s = if s.N.val ≤ 55 then 1 else 2) ∧
  (∀ s, s.PHASE ≠ .absorb → compressions .final s = 0) ∧
  (∀ b s, s.PHASE = .absorb → compressions (.putb b) s = if s.N.val = 63 then 1 else 0) ∧
  (∀ b s, s.PHASE ≠ .absorb → compressions (.putb b) s = 0) ∧
  (∀ s, s.PHASE ≠ .absorb → compressions .comp s = 1) ∧
  (∀ s, s.PHASE = .absorb → compressions .comp s = 0) ∧
  (∀ i s, (i = .nop ∨ i = .init ∨ (∃ idx v, i = .ldh idx v) ∨ (∃ idx v, i = .ldw idx v) ∨
    isRead i = true) → compressions i s = 0) ∧
  (∀ i s t, s.PHASE = t.PHASE → s.N = t.N → compressions i s = compressions i t)

/-- R180, R48: while a command stays in flight nothing visible changes but H, and H only at a FOLD;
`done_o` rises only at the last FOLD of FINAL; at every micro-step `cmd_ready` is 0. -/
def Obligations.PinsWhileBusy : Prop :=
  ∀ s t, busyO s = true → microStep s = .next t →
    cmdReady false s = false ∧
    (busyO t = true →
      t.N = s.N ∧ t.LEN = s.LEN ∧ t.PHASE = s.PHASE ∧ t.ERR = s.ERR ∧ t.ECODE = s.ECODE ∧
      t.RSPV = s.RSPV ∧ t.RSPD = s.RSPD ∧
      (t.H ≠ s.H → ∃ i more, s.INFLIGHT = .rounds i more ∧ s.T = 80)) ∧
    (doneO s = false → doneO t = true →
      s.INFLIGHT = .rounds .final false ∧ s.T = 80 ∧ busyO t = false ∧ t.H = (foldStep s).H)

/-! ## Invariants (10_state.md R30) -/

/-- The invariant holds after reset. -/
def Obligations.InvariantAfterReset : Prop := EngineInv State.reset

/-- R30: every step keeps the invariant, from every state that has it, a state with a command in
flight included. -/
def Obligations.StepKeepsInvariant : Prop := ∀ s t, EngineInv s → step s = .next t → EngineInv t

/-- R30 at the pins: every clock edge keeps the invariant, whatever the inputs and however many
micro-steps are made at it. -/
def Obligations.ClockEdgeKeepsInvariant : Prop :=
  ∀ k p s t, EngineInv s → clockEdge k p s = .next t → EngineInv t
end

