-- ==== Sys2Proof/Laws/State.lean ====
section
/-! SUPPORT. One lemma per field per update of State, true by unfolding the update: a proof about a
command rewrites with these and never unfolds a record update. The proofs are written `(rfl)`, not
`rfl`, so that `simp` rewrites with them explicitly: steps by definitional equality would have the
kernel compare states of eighty rounds. -/

namespace Sys2Proof.Machine

section raiseFaultFields
@[simp] theorem raiseFault_H (code : FaultCode) (s : State) : (raiseFault code s).H = s.H := (rfl)
@[simp] theorem raiseFault_W (code : FaultCode) (s : State) : (raiseFault code s).W = s.W := (rfl)
@[simp] theorem raiseFault_A (code : FaultCode) (s : State) : (raiseFault code s).A = s.A := (rfl)
@[simp] theorem raiseFault_B (code : FaultCode) (s : State) : (raiseFault code s).B = s.B := (rfl)
@[simp] theorem raiseFault_C (code : FaultCode) (s : State) : (raiseFault code s).C = s.C := (rfl)
@[simp] theorem raiseFault_D (code : FaultCode) (s : State) : (raiseFault code s).D = s.D := (rfl)
@[simp] theorem raiseFault_E (code : FaultCode) (s : State) : (raiseFault code s).E = s.E := (rfl)
@[simp] theorem raiseFault_T (code : FaultCode) (s : State) : (raiseFault code s).T = s.T := (rfl)
@[simp] theorem raiseFault_BUF (code : FaultCode) (s : State) : (raiseFault code s).BUF = s.BUF := (rfl)
@[simp] theorem raiseFault_N (code : FaultCode) (s : State) : (raiseFault code s).N = s.N := (rfl)
@[simp] theorem raiseFault_LEN (code : FaultCode) (s : State) : (raiseFault code s).LEN = s.LEN := (rfl)
@[simp] theorem raiseFault_PHASE (code : FaultCode) (s : State) : (raiseFault code s).PHASE = s.PHASE := (rfl)
@[simp] theorem raiseFault_ERR (code : FaultCode) (s : State) : (raiseFault code s).ERR = true := (rfl)
@[simp] theorem raiseFault_ECODE (code : FaultCode) (s : State) : (raiseFault code s).ECODE = if s.ERR then s.ECODE else some code := (rfl)
@[simp] theorem raiseFault_RSPD (code : FaultCode) (s : State) : (raiseFault code s).RSPD = s.RSPD := (rfl)
@[simp] theorem raiseFault_RSPV (code : FaultCode) (s : State) : (raiseFault code s).RSPV = s.RSPV := (rfl)
@[simp] theorem raiseFault_INFLIGHT (code : FaultCode) (s : State) : (raiseFault code s).INFLIGHT = s.INFLIGHT := (rfl)
@[simp] theorem raiseFault_host (code : FaultCode) (s : State) : (raiseFault code s).host = s.host := (rfl)
@[simp] theorem raiseFault_rspReady (code : FaultCode) (s : State) : (raiseFault code s).rspReady = s.rspReady := (rfl)
@[simp] theorem raiseFault_received (code : FaultCode) (s : State) : (raiseFault code s).received = s.received := (rfl)
end raiseFaultFields

section rspPushFields
@[simp] theorem rspPush_H (v : Word) (s : State) : (rspPush v s).H = s.H := (rfl)
@[simp] theorem rspPush_W (v : Word) (s : State) : (rspPush v s).W = s.W := (rfl)
@[simp] theorem rspPush_A (v : Word) (s : State) : (rspPush v s).A = s.A := (rfl)
@[simp] theorem rspPush_B (v : Word) (s : State) : (rspPush v s).B = s.B := (rfl)
@[simp] theorem rspPush_C (v : Word) (s : State) : (rspPush v s).C = s.C := (rfl)
@[simp] theorem rspPush_D (v : Word) (s : State) : (rspPush v s).D = s.D := (rfl)
@[simp] theorem rspPush_E (v : Word) (s : State) : (rspPush v s).E = s.E := (rfl)
@[simp] theorem rspPush_T (v : Word) (s : State) : (rspPush v s).T = s.T := (rfl)
@[simp] theorem rspPush_BUF (v : Word) (s : State) : (rspPush v s).BUF = s.BUF := (rfl)
@[simp] theorem rspPush_N (v : Word) (s : State) : (rspPush v s).N = s.N := (rfl)
@[simp] theorem rspPush_LEN (v : Word) (s : State) : (rspPush v s).LEN = s.LEN := (rfl)
@[simp] theorem rspPush_PHASE (v : Word) (s : State) : (rspPush v s).PHASE = s.PHASE := (rfl)
@[simp] theorem rspPush_ERR (v : Word) (s : State) : (rspPush v s).ERR = s.ERR := (rfl)
@[simp] theorem rspPush_ECODE (v : Word) (s : State) : (rspPush v s).ECODE = s.ECODE := (rfl)
@[simp] theorem rspPush_RSPD (v : Word) (s : State) : (rspPush v s).RSPD = v := (rfl)
@[simp] theorem rspPush_RSPV (v : Word) (s : State) : (rspPush v s).RSPV = true := (rfl)
@[simp] theorem rspPush_INFLIGHT (v : Word) (s : State) : (rspPush v s).INFLIGHT = s.INFLIGHT := (rfl)
@[simp] theorem rspPush_host (v : Word) (s : State) : (rspPush v s).host = s.host := (rfl)
@[simp] theorem rspPush_rspReady (v : Word) (s : State) : (rspPush v s).rspReady = s.rspReady := (rfl)
@[simp] theorem rspPush_received (v : Word) (s : State) : (rspPush v s).received = s.received := (rfl)
end rspPushFields

section startStepFields
@[simp] theorem startStep_H (s : State) : (startStep s).H = s.H := (rfl)
@[simp] theorem startStep_W (s : State) : (startStep s).W = s.W := (rfl)
@[simp] theorem startStep_A (s : State) : (startStep s).A = s.H[0] := (rfl)
@[simp] theorem startStep_B (s : State) : (startStep s).B = s.H[1] := (rfl)
@[simp] theorem startStep_C (s : State) : (startStep s).C = s.H[2] := (rfl)
@[simp] theorem startStep_D (s : State) : (startStep s).D = s.H[3] := (rfl)
@[simp] theorem startStep_E (s : State) : (startStep s).E = s.H[4] := (rfl)
@[simp] theorem startStep_T (s : State) : (startStep s).T = 0 := (rfl)
@[simp] theorem startStep_BUF (s : State) : (startStep s).BUF = s.BUF := (rfl)
@[simp] theorem startStep_N (s : State) : (startStep s).N = s.N := (rfl)
@[simp] theorem startStep_LEN (s : State) : (startStep s).LEN = s.LEN := (rfl)
@[simp] theorem startStep_PHASE (s : State) : (startStep s).PHASE = s.PHASE := (rfl)
@[simp] theorem startStep_ERR (s : State) : (startStep s).ERR = s.ERR := (rfl)
@[simp] theorem startStep_ECODE (s : State) : (startStep s).ECODE = s.ECODE := (rfl)
@[simp] theorem startStep_RSPD (s : State) : (startStep s).RSPD = s.RSPD := (rfl)
@[simp] theorem startStep_RSPV (s : State) : (startStep s).RSPV = s.RSPV := (rfl)
@[simp] theorem startStep_INFLIGHT (s : State) : (startStep s).INFLIGHT = s.INFLIGHT := (rfl)
@[simp] theorem startStep_host (s : State) : (startStep s).host = s.host := (rfl)
@[simp] theorem startStep_rspReady (s : State) : (startStep s).rspReady = s.rspReady := (rfl)
@[simp] theorem startStep_received (s : State) : (startStep s).received = s.received := (rfl)
end startStepFields

section foldStepFields
@[simp] theorem foldStep_H (s : State) : (foldStep s).H = #v[add32 s.H[0] s.A, add32 s.H[1] s.B, add32 s.H[2] s.C, add32 s.H[3] s.D, add32 s.H[4] s.E] := (rfl)
@[simp] theorem foldStep_W (s : State) : (foldStep s).W = s.W := (rfl)
@[simp] theorem foldStep_A (s : State) : (foldStep s).A = s.A := (rfl)
@[simp] theorem foldStep_B (s : State) : (foldStep s).B = s.B := (rfl)
@[simp] theorem foldStep_C (s : State) : (foldStep s).C = s.C := (rfl)
@[simp] theorem foldStep_D (s : State) : (foldStep s).D = s.D := (rfl)
@[simp] theorem foldStep_E (s : State) : (foldStep s).E = s.E := (rfl)
@[simp] theorem foldStep_T (s : State) : (foldStep s).T = s.T := (rfl)
@[simp] theorem foldStep_BUF (s : State) : (foldStep s).BUF = s.BUF := (rfl)
@[simp] theorem foldStep_N (s : State) : (foldStep s).N = s.N := (rfl)
@[simp] theorem foldStep_LEN (s : State) : (foldStep s).LEN = s.LEN := (rfl)
@[simp] theorem foldStep_PHASE (s : State) : (foldStep s).PHASE = s.PHASE := (rfl)
@[simp] theorem foldStep_ERR (s : State) : (foldStep s).ERR = s.ERR := (rfl)
@[simp] theorem foldStep_ECODE (s : State) : (foldStep s).ECODE = s.ECODE := (rfl)
@[simp] theorem foldStep_RSPD (s : State) : (foldStep s).RSPD = s.RSPD := (rfl)
@[simp] theorem foldStep_RSPV (s : State) : (foldStep s).RSPV = s.RSPV := (rfl)
@[simp] theorem foldStep_INFLIGHT (s : State) : (foldStep s).INFLIGHT = s.INFLIGHT := (rfl)
@[simp] theorem foldStep_host (s : State) : (foldStep s).host = s.host := (rfl)
@[simp] theorem foldStep_rspReady (s : State) : (foldStep s).rspReady = s.rspReady := (rfl)
@[simp] theorem foldStep_received (s : State) : (foldStep s).received = s.received := (rfl)
end foldStepFields

section packIntoFields
@[simp] theorem packInto_H (M : Vector Byte 64) (s : State) : (packInto M s).H = s.H := by unfold packInto; rfl
@[simp] theorem packInto_W (M : Vector Byte 64) (s : State) : (packInto M s).W = packWords M := by unfold packInto; rfl
@[simp] theorem packInto_A (M : Vector Byte 64) (s : State) : (packInto M s).A = s.A := by unfold packInto; rfl
@[simp] theorem packInto_B (M : Vector Byte 64) (s : State) : (packInto M s).B = s.B := by unfold packInto; rfl
@[simp] theorem packInto_C (M : Vector Byte 64) (s : State) : (packInto M s).C = s.C := by unfold packInto; rfl
@[simp] theorem packInto_D (M : Vector Byte 64) (s : State) : (packInto M s).D = s.D := by unfold packInto; rfl
@[simp] theorem packInto_E (M : Vector Byte 64) (s : State) : (packInto M s).E = s.E := by unfold packInto; rfl
@[simp] theorem packInto_T (M : Vector Byte 64) (s : State) : (packInto M s).T = s.T := by unfold packInto; rfl
@[simp] theorem packInto_BUF (M : Vector Byte 64) (s : State) : (packInto M s).BUF = s.BUF := by unfold packInto; rfl
@[simp] theorem packInto_N (M : Vector Byte 64) (s : State) : (packInto M s).N = s.N := by unfold packInto; rfl
@[simp] theorem packInto_LEN (M : Vector Byte 64) (s : State) : (packInto M s).LEN = s.LEN := by unfold packInto; rfl
@[simp] theorem packInto_PHASE (M : Vector Byte 64) (s : State) : (packInto M s).PHASE = s.PHASE := by unfold packInto; rfl
@[simp] theorem packInto_ERR (M : Vector Byte 64) (s : State) : (packInto M s).ERR = s.ERR := by unfold packInto; rfl
@[simp] theorem packInto_ECODE (M : Vector Byte 64) (s : State) : (packInto M s).ECODE = s.ECODE := by unfold packInto; rfl
@[simp] theorem packInto_RSPD (M : Vector Byte 64) (s : State) : (packInto M s).RSPD = s.RSPD := by unfold packInto; rfl
@[simp] theorem packInto_RSPV (M : Vector Byte 64) (s : State) : (packInto M s).RSPV = s.RSPV := by unfold packInto; rfl
@[simp] theorem packInto_INFLIGHT (M : Vector Byte 64) (s : State) : (packInto M s).INFLIGHT = s.INFLIGHT := by unfold packInto; rfl
@[simp] theorem packInto_host (M : Vector Byte 64) (s : State) : (packInto M s).host = s.host := by unfold packInto; rfl
@[simp] theorem packInto_rspReady (M : Vector Byte 64) (s : State) : (packInto M s).rspReady = s.rspReady := by unfold packInto; rfl
@[simp] theorem packInto_received (M : Vector Byte 64) (s : State) : (packInto M s).received = s.received := by unfold packInto; rfl
end packIntoFields

section storeByteFields
@[simp] theorem storeByte_H (b : Byte) (s : State) : (storeByte b s).H = s.H := (rfl)
@[simp] theorem storeByte_W (b : Byte) (s : State) : (storeByte b s).W = s.W := (rfl)
@[simp] theorem storeByte_A (b : Byte) (s : State) : (storeByte b s).A = s.A := (rfl)
@[simp] theorem storeByte_B (b : Byte) (s : State) : (storeByte b s).B = s.B := (rfl)
@[simp] theorem storeByte_C (b : Byte) (s : State) : (storeByte b s).C = s.C := (rfl)
@[simp] theorem storeByte_D (b : Byte) (s : State) : (storeByte b s).D = s.D := (rfl)
@[simp] theorem storeByte_E (b : Byte) (s : State) : (storeByte b s).E = s.E := (rfl)
@[simp] theorem storeByte_T (b : Byte) (s : State) : (storeByte b s).T = s.T := (rfl)
@[simp] theorem storeByte_BUF (b : Byte) (s : State) : (storeByte b s).BUF = s.BUF.set s.N b := (rfl)
@[simp] theorem storeByte_N (b : Byte) (s : State) : (storeByte b s).N = s.N := (rfl)
@[simp] theorem storeByte_LEN (b : Byte) (s : State) : (storeByte b s).LEN = s.LEN := (rfl)
@[simp] theorem storeByte_PHASE (b : Byte) (s : State) : (storeByte b s).PHASE = s.PHASE := (rfl)
@[simp] theorem storeByte_ERR (b : Byte) (s : State) : (storeByte b s).ERR = s.ERR := (rfl)
@[simp] theorem storeByte_ECODE (b : Byte) (s : State) : (storeByte b s).ECODE = s.ECODE := (rfl)
@[simp] theorem storeByte_RSPD (b : Byte) (s : State) : (storeByte b s).RSPD = s.RSPD := (rfl)
@[simp] theorem storeByte_RSPV (b : Byte) (s : State) : (storeByte b s).RSPV = s.RSPV := (rfl)
@[simp] theorem storeByte_INFLIGHT (b : Byte) (s : State) : (storeByte b s).INFLIGHT = s.INFLIGHT := (rfl)
@[simp] theorem storeByte_host (b : Byte) (s : State) : (storeByte b s).host = s.host := (rfl)
@[simp] theorem storeByte_rspReady (b : Byte) (s : State) : (storeByte b s).rspReady = s.rspReady := (rfl)
@[simp] theorem storeByte_received (b : Byte) (s : State) : (storeByte b s).received = s.received := (rfl)
end storeByteFields

section startMessageFields
@[simp] theorem startMessage_H (s : State) : (startMessage s).H = iv := (rfl)
@[simp] theorem startMessage_W (s : State) : (startMessage s).W = s.W := (rfl)
@[simp] theorem startMessage_A (s : State) : (startMessage s).A = s.A := (rfl)
@[simp] theorem startMessage_B (s : State) : (startMessage s).B = s.B := (rfl)
@[simp] theorem startMessage_C (s : State) : (startMessage s).C = s.C := (rfl)
@[simp] theorem startMessage_D (s : State) : (startMessage s).D = s.D := (rfl)
@[simp] theorem startMessage_E (s : State) : (startMessage s).E = s.E := (rfl)
@[simp] theorem startMessage_T (s : State) : (startMessage s).T = s.T := (rfl)
@[simp] theorem startMessage_BUF (s : State) : (startMessage s).BUF = s.BUF := (rfl)
@[simp] theorem startMessage_N (s : State) : (startMessage s).N = 0 := (rfl)
@[simp] theorem startMessage_LEN (s : State) : (startMessage s).LEN = 0 := (rfl)
@[simp] theorem startMessage_PHASE (s : State) : (startMessage s).PHASE = .absorb := (rfl)
@[simp] theorem startMessage_ERR (s : State) : (startMessage s).ERR = s.ERR := (rfl)
@[simp] theorem startMessage_ECODE (s : State) : (startMessage s).ECODE = s.ECODE := (rfl)
@[simp] theorem startMessage_RSPD (s : State) : (startMessage s).RSPD = s.RSPD := (rfl)
@[simp] theorem startMessage_RSPV (s : State) : (startMessage s).RSPV = s.RSPV := (rfl)
@[simp] theorem startMessage_INFLIGHT (s : State) : (startMessage s).INFLIGHT = s.INFLIGHT := (rfl)
@[simp] theorem startMessage_host (s : State) : (startMessage s).host = s.host := (rfl)
@[simp] theorem startMessage_rspReady (s : State) : (startMessage s).rspReady = s.rspReady := (rfl)
@[simp] theorem startMessage_received (s : State) : (startMessage s).received = s.received := (rfl)
end startMessageFields

section writeHFields
@[simp] theorem writeH_H (i : Fin 5) (v : Word) (s : State) : (writeH i v s).H = s.H.set i v := (rfl)
@[simp] theorem writeH_W (i : Fin 5) (v : Word) (s : State) : (writeH i v s).W = s.W := (rfl)
@[simp] theorem writeH_A (i : Fin 5) (v : Word) (s : State) : (writeH i v s).A = s.A := (rfl)
@[simp] theorem writeH_B (i : Fin 5) (v : Word) (s : State) : (writeH i v s).B = s.B := (rfl)
@[simp] theorem writeH_C (i : Fin 5) (v : Word) (s : State) : (writeH i v s).C = s.C := (rfl)
@[simp] theorem writeH_D (i : Fin 5) (v : Word) (s : State) : (writeH i v s).D = s.D := (rfl)
@[simp] theorem writeH_E (i : Fin 5) (v : Word) (s : State) : (writeH i v s).E = s.E := (rfl)
@[simp] theorem writeH_T (i : Fin 5) (v : Word) (s : State) : (writeH i v s).T = s.T := (rfl)
@[simp] theorem writeH_BUF (i : Fin 5) (v : Word) (s : State) : (writeH i v s).BUF = s.BUF := (rfl)
@[simp] theorem writeH_N (i : Fin 5) (v : Word) (s : State) : (writeH i v s).N = s.N := (rfl)
@[simp] theorem writeH_LEN (i : Fin 5) (v : Word) (s : State) : (writeH i v s).LEN = s.LEN := (rfl)
@[simp] theorem writeH_PHASE (i : Fin 5) (v : Word) (s : State) : (writeH i v s).PHASE = s.PHASE := (rfl)
@[simp] theorem writeH_ERR (i : Fin 5) (v : Word) (s : State) : (writeH i v s).ERR = s.ERR := (rfl)
@[simp] theorem writeH_ECODE (i : Fin 5) (v : Word) (s : State) : (writeH i v s).ECODE = s.ECODE := (rfl)
@[simp] theorem writeH_RSPD (i : Fin 5) (v : Word) (s : State) : (writeH i v s).RSPD = s.RSPD := (rfl)
@[simp] theorem writeH_RSPV (i : Fin 5) (v : Word) (s : State) : (writeH i v s).RSPV = s.RSPV := (rfl)
@[simp] theorem writeH_INFLIGHT (i : Fin 5) (v : Word) (s : State) : (writeH i v s).INFLIGHT = s.INFLIGHT := (rfl)
@[simp] theorem writeH_host (i : Fin 5) (v : Word) (s : State) : (writeH i v s).host = s.host := (rfl)
@[simp] theorem writeH_rspReady (i : Fin 5) (v : Word) (s : State) : (writeH i v s).rspReady = s.rspReady := (rfl)
@[simp] theorem writeH_received (i : Fin 5) (v : Word) (s : State) : (writeH i v s).received = s.received := (rfl)
end writeHFields

section writeWFields
@[simp] theorem writeW_H (i : Fin 16) (v : Word) (s : State) : (writeW i v s).H = s.H := (rfl)
@[simp] theorem writeW_W (i : Fin 16) (v : Word) (s : State) : (writeW i v s).W = s.W.set i v := (rfl)
@[simp] theorem writeW_A (i : Fin 16) (v : Word) (s : State) : (writeW i v s).A = s.A := (rfl)
@[simp] theorem writeW_B (i : Fin 16) (v : Word) (s : State) : (writeW i v s).B = s.B := (rfl)
@[simp] theorem writeW_C (i : Fin 16) (v : Word) (s : State) : (writeW i v s).C = s.C := (rfl)
@[simp] theorem writeW_D (i : Fin 16) (v : Word) (s : State) : (writeW i v s).D = s.D := (rfl)
@[simp] theorem writeW_E (i : Fin 16) (v : Word) (s : State) : (writeW i v s).E = s.E := (rfl)
@[simp] theorem writeW_T (i : Fin 16) (v : Word) (s : State) : (writeW i v s).T = s.T := (rfl)
@[simp] theorem writeW_BUF (i : Fin 16) (v : Word) (s : State) : (writeW i v s).BUF = s.BUF := (rfl)
@[simp] theorem writeW_N (i : Fin 16) (v : Word) (s : State) : (writeW i v s).N = s.N := (rfl)
@[simp] theorem writeW_LEN (i : Fin 16) (v : Word) (s : State) : (writeW i v s).LEN = s.LEN := (rfl)
@[simp] theorem writeW_PHASE (i : Fin 16) (v : Word) (s : State) : (writeW i v s).PHASE = s.PHASE := (rfl)
@[simp] theorem writeW_ERR (i : Fin 16) (v : Word) (s : State) : (writeW i v s).ERR = s.ERR := (rfl)
@[simp] theorem writeW_ECODE (i : Fin 16) (v : Word) (s : State) : (writeW i v s).ECODE = s.ECODE := (rfl)
@[simp] theorem writeW_RSPD (i : Fin 16) (v : Word) (s : State) : (writeW i v s).RSPD = s.RSPD := (rfl)
@[simp] theorem writeW_RSPV (i : Fin 16) (v : Word) (s : State) : (writeW i v s).RSPV = s.RSPV := (rfl)
@[simp] theorem writeW_INFLIGHT (i : Fin 16) (v : Word) (s : State) : (writeW i v s).INFLIGHT = s.INFLIGHT := (rfl)
@[simp] theorem writeW_host (i : Fin 16) (v : Word) (s : State) : (writeW i v s).host = s.host := (rfl)
@[simp] theorem writeW_rspReady (i : Fin 16) (v : Word) (s : State) : (writeW i v s).rspReady = s.rspReady := (rfl)
@[simp] theorem writeW_received (i : Fin 16) (v : Word) (s : State) : (writeW i v s).received = s.received := (rfl)
end writeWFields

section handOverFields
@[simp] theorem handOver_H (s : State) : (handOver s).H = s.H := (rfl)
@[simp] theorem handOver_W (s : State) : (handOver s).W = s.W := (rfl)
@[simp] theorem handOver_A (s : State) : (handOver s).A = s.A := (rfl)
@[simp] theorem handOver_B (s : State) : (handOver s).B = s.B := (rfl)
@[simp] theorem handOver_C (s : State) : (handOver s).C = s.C := (rfl)
@[simp] theorem handOver_D (s : State) : (handOver s).D = s.D := (rfl)
@[simp] theorem handOver_E (s : State) : (handOver s).E = s.E := (rfl)
@[simp] theorem handOver_T (s : State) : (handOver s).T = s.T := (rfl)
@[simp] theorem handOver_BUF (s : State) : (handOver s).BUF = s.BUF := (rfl)
@[simp] theorem handOver_N (s : State) : (handOver s).N = s.N := (rfl)
@[simp] theorem handOver_LEN (s : State) : (handOver s).LEN = s.LEN := (rfl)
@[simp] theorem handOver_PHASE (s : State) : (handOver s).PHASE = s.PHASE := (rfl)
@[simp] theorem handOver_ERR (s : State) : (handOver s).ERR = s.ERR := (rfl)
@[simp] theorem handOver_ECODE (s : State) : (handOver s).ECODE = s.ECODE := (rfl)
@[simp] theorem handOver_RSPD (s : State) : (handOver s).RSPD = s.RSPD := (rfl)
@[simp] theorem handOver_RSPV (s : State) : (handOver s).RSPV = false := (rfl)
@[simp] theorem handOver_INFLIGHT (s : State) : (handOver s).INFLIGHT = s.INFLIGHT := (rfl)
@[simp] theorem handOver_host (s : State) : (handOver s).host = s.host := (rfl)
@[simp] theorem handOver_rspReady (s : State) : (handOver s).rspReady = s.rspReady := (rfl)
@[simp] theorem handOver_received (s : State) : (handOver s).received = s.received ++ [s.RSPD] := (rfl)
end handOverFields

section resetEngineFields
@[simp] theorem resetEngine_H (s : State) : (resetEngine s).H = State.reset.H := (rfl)
@[simp] theorem resetEngine_W (s : State) : (resetEngine s).W = State.reset.W := (rfl)
@[simp] theorem resetEngine_A (s : State) : (resetEngine s).A = State.reset.A := (rfl)
@[simp] theorem resetEngine_B (s : State) : (resetEngine s).B = State.reset.B := (rfl)
@[simp] theorem resetEngine_C (s : State) : (resetEngine s).C = State.reset.C := (rfl)
@[simp] theorem resetEngine_D (s : State) : (resetEngine s).D = State.reset.D := (rfl)
@[simp] theorem resetEngine_E (s : State) : (resetEngine s).E = State.reset.E := (rfl)
@[simp] theorem resetEngine_T (s : State) : (resetEngine s).T = State.reset.T := (rfl)
@[simp] theorem resetEngine_BUF (s : State) : (resetEngine s).BUF = State.reset.BUF := (rfl)
@[simp] theorem resetEngine_N (s : State) : (resetEngine s).N = State.reset.N := (rfl)
@[simp] theorem resetEngine_LEN (s : State) : (resetEngine s).LEN = State.reset.LEN := (rfl)
@[simp] theorem resetEngine_PHASE (s : State) : (resetEngine s).PHASE = State.reset.PHASE := (rfl)
@[simp] theorem resetEngine_ERR (s : State) : (resetEngine s).ERR = State.reset.ERR := (rfl)
@[simp] theorem resetEngine_ECODE (s : State) : (resetEngine s).ECODE = State.reset.ECODE := (rfl)
@[simp] theorem resetEngine_RSPD (s : State) : (resetEngine s).RSPD = State.reset.RSPD := (rfl)
@[simp] theorem resetEngine_RSPV (s : State) : (resetEngine s).RSPV = State.reset.RSPV := (rfl)
@[simp] theorem resetEngine_INFLIGHT (s : State) : (resetEngine s).INFLIGHT = State.reset.INFLIGHT := (rfl)
@[simp] theorem resetEngine_host (s : State) : (resetEngine s).host = s.host := (rfl)
@[simp] theorem resetEngine_rspReady (s : State) : (resetEngine s).rspReady = s.rspReady := (rfl)
@[simp] theorem resetEngine_received (s : State) : (resetEngine s).received = s.received := (rfl)
end resetEngineFields

section enterPhaseFields
@[simp] theorem enterPhase_H (p : Phase) (s : State) : (enterPhase p s).H = s.H := (rfl)
@[simp] theorem enterPhase_W (p : Phase) (s : State) : (enterPhase p s).W = s.W := (rfl)
@[simp] theorem enterPhase_A (p : Phase) (s : State) : (enterPhase p s).A = s.A := (rfl)
@[simp] theorem enterPhase_B (p : Phase) (s : State) : (enterPhase p s).B = s.B := (rfl)
@[simp] theorem enterPhase_C (p : Phase) (s : State) : (enterPhase p s).C = s.C := (rfl)
@[simp] theorem enterPhase_D (p : Phase) (s : State) : (enterPhase p s).D = s.D := (rfl)
@[simp] theorem enterPhase_E (p : Phase) (s : State) : (enterPhase p s).E = s.E := (rfl)
@[simp] theorem enterPhase_T (p : Phase) (s : State) : (enterPhase p s).T = s.T := (rfl)
@[simp] theorem enterPhase_BUF (p : Phase) (s : State) : (enterPhase p s).BUF = s.BUF := (rfl)
@[simp] theorem enterPhase_N (p : Phase) (s : State) : (enterPhase p s).N = s.N := (rfl)
@[simp] theorem enterPhase_LEN (p : Phase) (s : State) : (enterPhase p s).LEN = s.LEN := (rfl)
@[simp] theorem enterPhase_PHASE (p : Phase) (s : State) : (enterPhase p s).PHASE = p := (rfl)
@[simp] theorem enterPhase_ERR (p : Phase) (s : State) : (enterPhase p s).ERR = s.ERR := (rfl)
@[simp] theorem enterPhase_ECODE (p : Phase) (s : State) : (enterPhase p s).ECODE = s.ECODE := (rfl)
@[simp] theorem enterPhase_RSPD (p : Phase) (s : State) : (enterPhase p s).RSPD = s.RSPD := (rfl)
@[simp] theorem enterPhase_RSPV (p : Phase) (s : State) : (enterPhase p s).RSPV = s.RSPV := (rfl)
@[simp] theorem enterPhase_INFLIGHT (p : Phase) (s : State) : (enterPhase p s).INFLIGHT = s.INFLIGHT := (rfl)
@[simp] theorem enterPhase_host (p : Phase) (s : State) : (enterPhase p s).host = s.host := (rfl)
@[simp] theorem enterPhase_rspReady (p : Phase) (s : State) : (enterPhase p s).rspReady = s.rspReady := (rfl)
@[simp] theorem enterPhase_received (p : Phase) (s : State) : (enterPhase p s).received = s.received := (rfl)
end enterPhaseFields

section setTailFields
@[simp] theorem setTail_H (n : Fin 64) (s : State) : (setTail n s).H = s.H := (rfl)
@[simp] theorem setTail_W (n : Fin 64) (s : State) : (setTail n s).W = s.W := (rfl)
@[simp] theorem setTail_A (n : Fin 64) (s : State) : (setTail n s).A = s.A := (rfl)
@[simp] theorem setTail_B (n : Fin 64) (s : State) : (setTail n s).B = s.B := (rfl)
@[simp] theorem setTail_C (n : Fin 64) (s : State) : (setTail n s).C = s.C := (rfl)
@[simp] theorem setTail_D (n : Fin 64) (s : State) : (setTail n s).D = s.D := (rfl)
@[simp] theorem setTail_E (n : Fin 64) (s : State) : (setTail n s).E = s.E := (rfl)
@[simp] theorem setTail_T (n : Fin 64) (s : State) : (setTail n s).T = s.T := (rfl)
@[simp] theorem setTail_BUF (n : Fin 64) (s : State) : (setTail n s).BUF = s.BUF := (rfl)
@[simp] theorem setTail_N (n : Fin 64) (s : State) : (setTail n s).N = n := (rfl)
@[simp] theorem setTail_LEN (n : Fin 64) (s : State) : (setTail n s).LEN = s.LEN := (rfl)
@[simp] theorem setTail_PHASE (n : Fin 64) (s : State) : (setTail n s).PHASE = s.PHASE := (rfl)
@[simp] theorem setTail_ERR (n : Fin 64) (s : State) : (setTail n s).ERR = s.ERR := (rfl)
@[simp] theorem setTail_ECODE (n : Fin 64) (s : State) : (setTail n s).ECODE = s.ECODE := (rfl)
@[simp] theorem setTail_RSPD (n : Fin 64) (s : State) : (setTail n s).RSPD = s.RSPD := (rfl)
@[simp] theorem setTail_RSPV (n : Fin 64) (s : State) : (setTail n s).RSPV = s.RSPV := (rfl)
@[simp] theorem setTail_INFLIGHT (n : Fin 64) (s : State) : (setTail n s).INFLIGHT = s.INFLIGHT := (rfl)
@[simp] theorem setTail_host (n : Fin 64) (s : State) : (setTail n s).host = s.host := (rfl)
@[simp] theorem setTail_rspReady (n : Fin 64) (s : State) : (setTail n s).rspReady = s.rspReady := (rfl)
@[simp] theorem setTail_received (n : Fin 64) (s : State) : (setTail n s).received = s.received := (rfl)
end setTailFields

section countByteFields
@[simp] theorem countByte_H (s : State) : (countByte s).H = s.H := (rfl)
@[simp] theorem countByte_W (s : State) : (countByte s).W = s.W := (rfl)
@[simp] theorem countByte_A (s : State) : (countByte s).A = s.A := (rfl)
@[simp] theorem countByte_B (s : State) : (countByte s).B = s.B := (rfl)
@[simp] theorem countByte_C (s : State) : (countByte s).C = s.C := (rfl)
@[simp] theorem countByte_D (s : State) : (countByte s).D = s.D := (rfl)
@[simp] theorem countByte_E (s : State) : (countByte s).E = s.E := (rfl)
@[simp] theorem countByte_T (s : State) : (countByte s).T = s.T := (rfl)
@[simp] theorem countByte_BUF (s : State) : (countByte s).BUF = s.BUF := (rfl)
@[simp] theorem countByte_N (s : State) : (countByte s).N = s.N := (rfl)
@[simp] theorem countByte_LEN (s : State) : (countByte s).LEN = s.LEN + 1 := (rfl)
@[simp] theorem countByte_PHASE (s : State) : (countByte s).PHASE = s.PHASE := (rfl)
@[simp] theorem countByte_ERR (s : State) : (countByte s).ERR = s.ERR := (rfl)
@[simp] theorem countByte_ECODE (s : State) : (countByte s).ECODE = s.ECODE := (rfl)
@[simp] theorem countByte_RSPD (s : State) : (countByte s).RSPD = s.RSPD := (rfl)
@[simp] theorem countByte_RSPV (s : State) : (countByte s).RSPV = s.RSPV := (rfl)
@[simp] theorem countByte_INFLIGHT (s : State) : (countByte s).INFLIGHT = s.INFLIGHT := (rfl)
@[simp] theorem countByte_host (s : State) : (countByte s).host = s.host := (rfl)
@[simp] theorem countByte_rspReady (s : State) : (countByte s).rspReady = s.rspReady := (rfl)
@[simp] theorem countByte_received (s : State) : (countByte s).received = s.received := (rfl)
end countByteFields

section withInflightFields
@[simp] theorem withInflight_H (x : Inflight) (s : State) : (withInflight x s).H = s.H := (rfl)
@[simp] theorem withInflight_W (x : Inflight) (s : State) : (withInflight x s).W = s.W := (rfl)
@[simp] theorem withInflight_A (x : Inflight) (s : State) : (withInflight x s).A = s.A := (rfl)
@[simp] theorem withInflight_B (x : Inflight) (s : State) : (withInflight x s).B = s.B := (rfl)
@[simp] theorem withInflight_C (x : Inflight) (s : State) : (withInflight x s).C = s.C := (rfl)
@[simp] theorem withInflight_D (x : Inflight) (s : State) : (withInflight x s).D = s.D := (rfl)
@[simp] theorem withInflight_E (x : Inflight) (s : State) : (withInflight x s).E = s.E := (rfl)
@[simp] theorem withInflight_T (x : Inflight) (s : State) : (withInflight x s).T = s.T := (rfl)
@[simp] theorem withInflight_BUF (x : Inflight) (s : State) : (withInflight x s).BUF = s.BUF := (rfl)
@[simp] theorem withInflight_N (x : Inflight) (s : State) : (withInflight x s).N = s.N := (rfl)
@[simp] theorem withInflight_LEN (x : Inflight) (s : State) : (withInflight x s).LEN = s.LEN := (rfl)
@[simp] theorem withInflight_PHASE (x : Inflight) (s : State) : (withInflight x s).PHASE = s.PHASE := (rfl)
@[simp] theorem withInflight_ERR (x : Inflight) (s : State) : (withInflight x s).ERR = s.ERR := (rfl)
@[simp] theorem withInflight_ECODE (x : Inflight) (s : State) : (withInflight x s).ECODE = s.ECODE := (rfl)
@[simp] theorem withInflight_RSPD (x : Inflight) (s : State) : (withInflight x s).RSPD = s.RSPD := (rfl)
@[simp] theorem withInflight_RSPV (x : Inflight) (s : State) : (withInflight x s).RSPV = s.RSPV := (rfl)
@[simp] theorem withInflight_INFLIGHT (x : Inflight) (s : State) : (withInflight x s).INFLIGHT = x := (rfl)
@[simp] theorem withInflight_host (x : Inflight) (s : State) : (withInflight x s).host = s.host := (rfl)
@[simp] theorem withInflight_rspReady (x : Inflight) (s : State) : (withInflight x s).rspReady = s.rspReady := (rfl)
@[simp] theorem withInflight_received (x : Inflight) (s : State) : (withInflight x s).received = s.received := (rfl)
end withInflightFields

section takeOffFields
@[simp] theorem takeOff_H (rest : List HostAct) (s : State) : (takeOff rest s).H = s.H := (rfl)
@[simp] theorem takeOff_W (rest : List HostAct) (s : State) : (takeOff rest s).W = s.W := (rfl)
@[simp] theorem takeOff_A (rest : List HostAct) (s : State) : (takeOff rest s).A = s.A := (rfl)
@[simp] theorem takeOff_B (rest : List HostAct) (s : State) : (takeOff rest s).B = s.B := (rfl)
@[simp] theorem takeOff_C (rest : List HostAct) (s : State) : (takeOff rest s).C = s.C := (rfl)
@[simp] theorem takeOff_D (rest : List HostAct) (s : State) : (takeOff rest s).D = s.D := (rfl)
@[simp] theorem takeOff_E (rest : List HostAct) (s : State) : (takeOff rest s).E = s.E := (rfl)
@[simp] theorem takeOff_T (rest : List HostAct) (s : State) : (takeOff rest s).T = s.T := (rfl)
@[simp] theorem takeOff_BUF (rest : List HostAct) (s : State) : (takeOff rest s).BUF = s.BUF := (rfl)
@[simp] theorem takeOff_N (rest : List HostAct) (s : State) : (takeOff rest s).N = s.N := (rfl)
@[simp] theorem takeOff_LEN (rest : List HostAct) (s : State) : (takeOff rest s).LEN = s.LEN := (rfl)
@[simp] theorem takeOff_PHASE (rest : List HostAct) (s : State) : (takeOff rest s).PHASE = s.PHASE := (rfl)
@[simp] theorem takeOff_ERR (rest : List HostAct) (s : State) : (takeOff rest s).ERR = s.ERR := (rfl)
@[simp] theorem takeOff_ECODE (rest : List HostAct) (s : State) : (takeOff rest s).ECODE = s.ECODE := (rfl)
@[simp] theorem takeOff_RSPD (rest : List HostAct) (s : State) : (takeOff rest s).RSPD = s.RSPD := (rfl)
@[simp] theorem takeOff_RSPV (rest : List HostAct) (s : State) : (takeOff rest s).RSPV = s.RSPV := (rfl)
@[simp] theorem takeOff_INFLIGHT (rest : List HostAct) (s : State) : (takeOff rest s).INFLIGHT = s.INFLIGHT := (rfl)
@[simp] theorem takeOff_host (rest : List HostAct) (s : State) : (takeOff rest s).host = rest := (rfl)
@[simp] theorem takeOff_rspReady (rest : List HostAct) (s : State) : (takeOff rest s).rspReady = s.rspReady := (rfl)
@[simp] theorem takeOff_received (rest : List HostAct) (s : State) : (takeOff rest s).received = s.received := (rfl)
end takeOffFields

section placeWordFields
@[simp] theorem placeWord_H (n w : Nat) (s : State) : (placeWord n w s).H = s.H := (rfl)
@[simp] theorem placeWord_W (n w : Nat) (s : State) : (placeWord n w s).W = s.W := (rfl)
@[simp] theorem placeWord_A (n w : Nat) (s : State) : (placeWord n w s).A = s.A := (rfl)
@[simp] theorem placeWord_B (n w : Nat) (s : State) : (placeWord n w s).B = s.B := (rfl)
@[simp] theorem placeWord_C (n w : Nat) (s : State) : (placeWord n w s).C = s.C := (rfl)
@[simp] theorem placeWord_D (n w : Nat) (s : State) : (placeWord n w s).D = s.D := (rfl)
@[simp] theorem placeWord_E (n w : Nat) (s : State) : (placeWord n w s).E = s.E := (rfl)
@[simp] theorem placeWord_T (n w : Nat) (s : State) : (placeWord n w s).T = s.T := (rfl)
@[simp] theorem placeWord_BUF (n w : Nat) (s : State) : (placeWord n w s).BUF = s.BUF := (rfl)
@[simp] theorem placeWord_N (n w : Nat) (s : State) : (placeWord n w s).N = s.N := (rfl)
@[simp] theorem placeWord_LEN (n w : Nat) (s : State) : (placeWord n w s).LEN = s.LEN := (rfl)
@[simp] theorem placeWord_PHASE (n w : Nat) (s : State) : (placeWord n w s).PHASE = s.PHASE := (rfl)
@[simp] theorem placeWord_ERR (n w : Nat) (s : State) : (placeWord n w s).ERR = s.ERR := (rfl)
@[simp] theorem placeWord_ECODE (n w : Nat) (s : State) : (placeWord n w s).ECODE = s.ECODE := (rfl)
@[simp] theorem placeWord_RSPD (n w : Nat) (s : State) : (placeWord n w s).RSPD = s.RSPD := (rfl)
@[simp] theorem placeWord_RSPV (n w : Nat) (s : State) : (placeWord n w s).RSPV = false := (rfl)
@[simp] theorem placeWord_INFLIGHT (n w : Nat) (s : State) : (placeWord n w s).INFLIGHT = .idle := (rfl)
@[simp] theorem placeWord_host (n w : Nat) (s : State) : (placeWord n w s).host = .command (BitVec.ofNat 48 (w % 2 ^ n)) :: s.host := (rfl)
@[simp] theorem placeWord_rspReady (n w : Nat) (s : State) : (placeWord n w s).rspReady = s.rspReady := (rfl)
@[simp] theorem placeWord_received (n w : Nat) (s : State) : (placeWord n w s).received = s.received := (rfl)
end placeWordFields

@[simp] theorem roundStep_H (s : State) : (roundStep s).H = s.H := by
  unfold roundStep; split <;> rfl
@[simp] theorem roundStep_BUF (s : State) : (roundStep s).BUF = s.BUF := by
  unfold roundStep; split <;> rfl
@[simp] theorem roundStep_N (s : State) : (roundStep s).N = s.N := by
  unfold roundStep; split <;> rfl
@[simp] theorem roundStep_LEN (s : State) : (roundStep s).LEN = s.LEN := by
  unfold roundStep; split <;> rfl
@[simp] theorem roundStep_PHASE (s : State) : (roundStep s).PHASE = s.PHASE := by
  unfold roundStep; split <;> rfl
@[simp] theorem roundStep_ERR (s : State) : (roundStep s).ERR = s.ERR := by
  unfold roundStep; split <;> rfl
@[simp] theorem roundStep_ECODE (s : State) : (roundStep s).ECODE = s.ECODE := by
  unfold roundStep; split <;> rfl
@[simp] theorem roundStep_RSPD (s : State) : (roundStep s).RSPD = s.RSPD := by
  unfold roundStep; split <;> rfl
@[simp] theorem roundStep_RSPV (s : State) : (roundStep s).RSPV = s.RSPV := by
  unfold roundStep; split <;> rfl
@[simp] theorem roundStep_INFLIGHT (s : State) : (roundStep s).INFLIGHT = s.INFLIGHT := by
  unfold roundStep; split <;> rfl
@[simp] theorem roundStep_host (s : State) : (roundStep s).host = s.host := by
  unfold roundStep; split <;> rfl
@[simp] theorem roundStep_rspReady (s : State) : (roundStep s).rspReady = s.rspReady := by
  unfold roundStep; split <;> rfl
@[simp] theorem roundStep_received (s : State) : (roundStep s).received = s.received := by
  unfold roundStep; split <;> rfl

/-- Where ROUND is enabled, everything it writes (R94). -/
theorem roundStep_enabled (s : State) (h : s.T.val < 80) :
    roundStep s =
      { s with
        W := ringAt s.W s.T.val
        A := roundTemp s.T.val s.A s.B s.C s.D s.E (roundWord s.W s.T.val)
        B := s.A
        C := rotl 30 s.B
        D := s.C
        E := s.D
        T := ⟨s.T.val + 1, Nat.succ_lt_succ h⟩ } := by
  simp [roundStep, h]

/-- Where ROUND is not enabled, nothing changes. -/
theorem roundStep_disabled (s : State) (h : ¬ s.T.val < 80) : roundStep s = s := by
  simp [roundStep, h]

theorem roundsStep_zero (s : State) : roundsStep 0 s = s := rfl
theorem roundsStep_succ (n : Nat) (s : State) :
    roundsStep (n + 1) s = roundsStep n (roundStep s) := rfl

/-- The last round split off, the shape an induction over the round number uses. -/
theorem roundsStep_succ_last (n : Nat) (s : State) :
    roundsStep (n + 1) s = roundStep (roundsStep n s) := by
  induction n generalizing s with
  | zero => rfl
  | succ n ih => rw [roundsStep_succ, ih, roundsStep_succ]

@[simp] theorem roundsStep_H (n : Nat) (s : State) : (roundsStep n s).H = s.H := by
  induction n generalizing s with
  | zero => rfl
  | succ n ih => rw [roundsStep_succ, ih, roundStep_H]
@[simp] theorem roundsStep_BUF (n : Nat) (s : State) : (roundsStep n s).BUF = s.BUF := by
  induction n generalizing s with
  | zero => rfl
  | succ n ih => rw [roundsStep_succ, ih, roundStep_BUF]
@[simp] theorem roundsStep_N (n : Nat) (s : State) : (roundsStep n s).N = s.N := by
  induction n generalizing s with
  | zero => rfl
  | succ n ih => rw [roundsStep_succ, ih, roundStep_N]
@[simp] theorem roundsStep_LEN (n : Nat) (s : State) : (roundsStep n s).LEN = s.LEN := by
  induction n generalizing s with
  | zero => rfl
  | succ n ih => rw [roundsStep_succ, ih, roundStep_LEN]
@[simp] theorem roundsStep_PHASE (n : Nat) (s : State) : (roundsStep n s).PHASE = s.PHASE := by
  induction n generalizing s with
  | zero => rfl
  | succ n ih => rw [roundsStep_succ, ih, roundStep_PHASE]
@[simp] theorem roundsStep_ERR (n : Nat) (s : State) : (roundsStep n s).ERR = s.ERR := by
  induction n generalizing s with
  | zero => rfl
  | succ n ih => rw [roundsStep_succ, ih, roundStep_ERR]
@[simp] theorem roundsStep_ECODE (n : Nat) (s : State) : (roundsStep n s).ECODE = s.ECODE := by
  induction n generalizing s with
  | zero => rfl
  | succ n ih => rw [roundsStep_succ, ih, roundStep_ECODE]
@[simp] theorem roundsStep_RSPD (n : Nat) (s : State) : (roundsStep n s).RSPD = s.RSPD := by
  induction n generalizing s with
  | zero => rfl
  | succ n ih => rw [roundsStep_succ, ih, roundStep_RSPD]
@[simp] theorem roundsStep_RSPV (n : Nat) (s : State) : (roundsStep n s).RSPV = s.RSPV := by
  induction n generalizing s with
  | zero => rfl
  | succ n ih => rw [roundsStep_succ, ih, roundStep_RSPV]
@[simp] theorem roundsStep_INFLIGHT (n : Nat) (s : State) : (roundsStep n s).INFLIGHT = s.INFLIGHT := by
  induction n generalizing s with
  | zero => rfl
  | succ n ih => rw [roundsStep_succ, ih, roundStep_INFLIGHT]
@[simp] theorem roundsStep_host (n : Nat) (s : State) : (roundsStep n s).host = s.host := by
  induction n generalizing s with
  | zero => rfl
  | succ n ih => rw [roundsStep_succ, ih, roundStep_host]
@[simp] theorem roundsStep_rspReady (n : Nat) (s : State) : (roundsStep n s).rspReady = s.rspReady := by
  induction n generalizing s with
  | zero => rfl
  | succ n ih => rw [roundsStep_succ, ih, roundStep_rspReady]
@[simp] theorem roundsStep_received (n : Nat) (s : State) : (roundsStep n s).received = s.received := by
  induction n generalizing s with
  | zero => rfl
  | succ n ih => rw [roundsStep_succ, ih, roundStep_received]

@[simp] theorem compress_BUF (s : State) : (compress s).BUF = s.BUF := by
  rw [compress, foldStep_BUF, roundsStep_BUF, startStep_BUF]
@[simp] theorem compress_N (s : State) : (compress s).N = s.N := by
  rw [compress, foldStep_N, roundsStep_N, startStep_N]
@[simp] theorem compress_LEN (s : State) : (compress s).LEN = s.LEN := by
  rw [compress, foldStep_LEN, roundsStep_LEN, startStep_LEN]
@[simp] theorem compress_PHASE (s : State) : (compress s).PHASE = s.PHASE := by
  rw [compress, foldStep_PHASE, roundsStep_PHASE, startStep_PHASE]
@[simp] theorem compress_ERR (s : State) : (compress s).ERR = s.ERR := by
  rw [compress, foldStep_ERR, roundsStep_ERR, startStep_ERR]
@[simp] theorem compress_ECODE (s : State) : (compress s).ECODE = s.ECODE := by
  rw [compress, foldStep_ECODE, roundsStep_ECODE, startStep_ECODE]
@[simp] theorem compress_RSPD (s : State) : (compress s).RSPD = s.RSPD := by
  rw [compress, foldStep_RSPD, roundsStep_RSPD, startStep_RSPD]
@[simp] theorem compress_RSPV (s : State) : (compress s).RSPV = s.RSPV := by
  rw [compress, foldStep_RSPV, roundsStep_RSPV, startStep_RSPV]
@[simp] theorem compress_INFLIGHT (s : State) : (compress s).INFLIGHT = s.INFLIGHT := by
  rw [compress, foldStep_INFLIGHT, roundsStep_INFLIGHT, startStep_INFLIGHT]
@[simp] theorem compress_host (s : State) : (compress s).host = s.host := by
  rw [compress, foldStep_host, roundsStep_host, startStep_host]
@[simp] theorem compress_rspReady (s : State) : (compress s).rspReady = s.rspReady := by
  rw [compress, foldStep_rspReady, roundsStep_rspReady, startStep_rspReady]
@[simp] theorem compress_received (s : State) : (compress s).received = s.received := by
  rw [compress, foldStep_received, roundsStep_received, startStep_received]

/-- FINAL's compressions with a tail of at most 55 bytes (R119). -/
theorem finalBlocks_one (s : State) (h : s.N.val ≤ 55) :
    finalBlocks s = compress (packInto (padOne s.BUF s.N.val (lenField s.LEN)) s) := by
  rw [finalBlocks, if_pos (by simp [oneFinalBlock, h])]

/-- FINAL's compressions with a tail of 56 bytes or more (R120). -/
theorem finalBlocks_two (s : State) (h : ¬ s.N.val ≤ 55) :
    finalBlocks s = compress (packInto (padSecond (lenField s.LEN))
      (compress (packInto (padFirst s.BUF s.N.val) s))) := by
  rw [finalBlocks, if_neg (by simp [oneFinalBlock, h])]

@[simp] theorem finalBlocks_BUF (s : State) : (finalBlocks s).BUF = s.BUF := by
  rw [finalBlocks]
  split <;> simp only [compress_BUF, packInto_BUF]
@[simp] theorem finalBlocks_N (s : State) : (finalBlocks s).N = s.N := by
  rw [finalBlocks]
  split <;> simp only [compress_N, packInto_N]
@[simp] theorem finalBlocks_LEN (s : State) : (finalBlocks s).LEN = s.LEN := by
  rw [finalBlocks]
  split <;> simp only [compress_LEN, packInto_LEN]
@[simp] theorem finalBlocks_PHASE (s : State) : (finalBlocks s).PHASE = s.PHASE := by
  rw [finalBlocks]
  split <;> simp only [compress_PHASE, packInto_PHASE]
@[simp] theorem finalBlocks_ERR (s : State) : (finalBlocks s).ERR = s.ERR := by
  rw [finalBlocks]
  split <;> simp only [compress_ERR, packInto_ERR]
@[simp] theorem finalBlocks_ECODE (s : State) : (finalBlocks s).ECODE = s.ECODE := by
  rw [finalBlocks]
  split <;> simp only [compress_ECODE, packInto_ECODE]
@[simp] theorem finalBlocks_RSPD (s : State) : (finalBlocks s).RSPD = s.RSPD := by
  rw [finalBlocks]
  split <;> simp only [compress_RSPD, packInto_RSPD]
@[simp] theorem finalBlocks_RSPV (s : State) : (finalBlocks s).RSPV = s.RSPV := by
  rw [finalBlocks]
  split <;> simp only [compress_RSPV, packInto_RSPV]
@[simp] theorem finalBlocks_INFLIGHT (s : State) : (finalBlocks s).INFLIGHT = s.INFLIGHT := by
  rw [finalBlocks]
  split <;> simp only [compress_INFLIGHT, packInto_INFLIGHT]
@[simp] theorem finalBlocks_host (s : State) : (finalBlocks s).host = s.host := by
  rw [finalBlocks]
  split <;> simp only [compress_host, packInto_host]
@[simp] theorem finalBlocks_rspReady (s : State) : (finalBlocks s).rspReady = s.rspReady := by
  rw [finalBlocks]
  split <;> simp only [compress_rspReady, packInto_rspReady]
@[simp] theorem finalBlocks_received (s : State) : (finalBlocks s).received = s.received := by
  rw [finalBlocks]
  split <;> simp only [compress_received, packInto_received]

end Sys2Proof.Machine
end

