-- ==== Sys2Proof/Laws/Ops.lean ====
section
/-! SUPPORT. For each shared operation, what it can do: reading a word's fields, selecting an element,
the shape of every meaning's answer, and how many micro-steps leave an idle engine as it is. -/

namespace Sys2Proof

@[simp] theorem opField_cmdWord (op idx : Byte) (data : Word) :
    opField (cmdWord op idx data) = op := by
  apply BitVec.eq_of_getLsbD_eq
  intro i hi
  simp only [opField, cmdWord, BitVec.getLsbD_extractLsb', BitVec.getLsbD_append]
  have h1 : ¬ 40 + i < 32 := by omega
  have h2 : ¬ 40 + i - 32 < 8 := by omega
  have h3 : 40 + i - 32 - 8 = i := by omega
  simp [h1, h2, h3, hi]

@[simp] theorem idxField_cmdWord (op idx : Byte) (data : Word) :
    idxField (cmdWord op idx data) = idx := by
  apply BitVec.eq_of_getLsbD_eq
  intro i hi
  simp only [idxField, cmdWord, BitVec.getLsbD_extractLsb', BitVec.getLsbD_append]
  have h1 : ¬ 32 + i < 32 := by omega
  have h2 : 32 + i - 32 = i := by omega
  simp [h1, h2, hi]

@[simp] theorem dataField_cmdWord (op idx : Byte) (data : Word) :
    dataField (cmdWord op idx data) = data := by
  apply BitVec.eq_of_getLsbD_eq
  intro i hi
  simp only [dataField, cmdWord, BitVec.getLsbD_extractLsb', BitVec.getLsbD_append]
  simp [hi]

/-- A command word is its three fields (R62): nothing else is in it. -/
theorem cmdWord_fields (c : CmdWord) : cmdWord (opField c) (idxField c) (dataField c) = c := by
  apply BitVec.eq_of_getLsbD_eq
  intro i hi
  simp only [cmdWord, opField, idxField, dataField, BitVec.getLsbD_append,
    BitVec.getLsbD_extractLsb']
  by_cases h1 : i < 32
  · simp [h1]
  · by_cases h2 : i - 32 < 8
    · have h3 : 32 + (i - 32) = i := by omega
      simp [h1, h2, h3]
    · have h3 : 40 + (i - 32 - 8) = i := by omega
      have h4 : i - 32 - 8 < 8 := by omega
      simp [h1, h2, h3, h4]

/-- Decoding a word given by its fields. -/
theorem decode_cmdWord (op idx : Byte) (data : Word) :
    decode (cmdWord op idx data) = decodeFields op idx data := by
  simp [decode]

namespace Machine

/-- An index in range selects its element. -/
theorem element_some (size : Nat) (idx : Byte) (h : idx.toNat < size) :
    element size idx = some ⟨idx.toNat, h⟩ := by
  simp [element, h]

/-- An index out of range selects none. -/
theorem element_none (size : Nat) (idx : Byte) (h : ¬ idx.toNat < size) :
    element size idx = none := by
  simp [element, h]

/-- The element selected is the one the index names. -/
theorem element_val {size : Nat} {idx : Byte} {i : Fin size} (h : element size idx = some i) :
    i.val = idx.toNat := by
  unfold element at h
  split at h
  · rw [← Option.some.inj h]
  · simp at h

/-- Where no element is selected the index is out of range. -/
theorem element_range {size : Nat} {idx : Byte} (h : element size idx = none) : size ≤ idx.toNat := by
  unfold element at h
  split at h
  · simp at h
  · omega

/-- An idle engine makes no micro-step. -/
theorem microSteps_idle (n : Nat) (s : State) (h : s.INFLIGHT = .idle) :
    microSteps n s = .next s := by
  induction n with
  | zero => rfl
  | succ n ih => simp [microSteps, microStep, h, ih]

/-- Micro-steps compose. -/
theorem microSteps_add (m n : Nat) (s t : State) (h : microSteps m s = .next t) :
    microSteps (m + n) s = microSteps n t := by
  induction m generalizing s with
  | zero => simp [microSteps] at h; simp [h]
  | succ m ih =>
    rw [Nat.succ_add]
    simp only [microSteps] at h ⊢
    cases hs : microStep s with
    | next s' => simp only [hs] at h ⊢; exact ih s' h
    | fault r => simp [hs] at h
    | refused r => simp [hs] at h

/-- Writing an element of H, read back at any element. -/
theorem readH_writeH (i j : Fin 5) (v : Word) (s : State) :
    readH (writeH i v s) j = if i = j then v else readH s j := by
  simp [readH, writeH, Vector.getElem_set, Fin.ext_iff]

/-- Writing an element of W, read back at any element. -/
theorem readW_writeW (i j : Fin 16) (v : Word) (s : State) :
    readW (writeW i v s) j = if i = j then v else readW s j := by
  simp [readW, writeW, Vector.getElem_set, Fin.ext_iff]

end Machine

end Sys2Proof
end

