-- ==== Sys2Proof/Laws/Commands.lean ====
section
/-! SUPPORT. For each meaning, one lemma that says once everything it can answer: which cases there are
and the next state of each. A proof about a command cites these and never unfolds a meaning. -/

namespace Sys2Proof.Machine

theorem execNop_cases {s t : State} (h : execNop s = .next t) : t = s := by
  simpa [execNop] using h.symm

theorem execInit_cases {s t : State} (h : execInit s = .next t) : t = startMessage s := by
  simpa [execInit] using h.symm

theorem execPutb_cases {b : Byte} {s t : State} (h : execPutb b s = .next t) :
    (s.PHASE ≠ .absorb ∧ t = raiseFault .sequence s) ∨
    (s.PHASE = .absorb ∧ s.N = 63 ∧
      t = setTail 0 (countByte (compress (packInto (storeByte b s).BUF (storeByte b s))))) ∨
    (s.PHASE = .absorb ∧ s.N ≠ 63 ∧ t = setTail (s.N + 1) (countByte (storeByte b s))) := by
  unfold execPutb at h
  split at h
  · rename_i hp
    split at h
    · rename_i hn
      exact .inr (.inl ⟨hp, hn, by simpa using h.symm⟩)
    · rename_i hn
      exact .inr (.inr ⟨hp, hn, by simpa using h.symm⟩)
  · rename_i hp
    exact .inl ⟨hp, by simpa using h.symm⟩

theorem execFinal_cases {s t : State} (h : execFinal s = .next t) :
    (s.PHASE ≠ .absorb ∧ t = raiseFault .sequence s) ∨
    (s.PHASE = .absorb ∧ t = enterPhase .done (setTail 0 (finalBlocks s))) := by
  unfold execFinal at h
  split at h
  · exact .inr ⟨‹_›, by simpa using h.symm⟩
  · exact .inl ⟨‹_›, by simpa using h.symm⟩

theorem execLdh_cases {idx : Byte} {v : Word} {s t : State} (h : execLdh idx v s = .next t) :
    (4 < idx.toNat ∧ t = raiseFault .illegalField s) ∨
    (idx.toNat ≤ 4 ∧ s.PHASE = .absorb ∧ t = raiseFault .sequence s) ∨
    ∃ i : Fin 5, i.val = idx.toNat ∧ s.PHASE ≠ .absorb ∧ t = enterPhase .raw (writeH i v s) := by
  unfold execLdh at h
  split at h
  · rename_i he
    exact .inl ⟨by have := element_range he; omega, by simpa using h.symm⟩
  · rename_i i he
    have hi := element_val he
    split at h
    · exact .inr (.inl ⟨by omega, ‹_›, by simpa using h.symm⟩)
    · exact .inr (.inr ⟨i, hi, ‹_›, by simpa using h.symm⟩)

theorem execLdw_cases {idx : Byte} {v : Word} {s t : State} (h : execLdw idx v s = .next t) :
    (15 < idx.toNat ∧ t = raiseFault .illegalField s) ∨
    (idx.toNat ≤ 15 ∧ s.PHASE = .absorb ∧ t = raiseFault .sequence s) ∨
    ∃ i : Fin 16, i.val = idx.toNat ∧ s.PHASE ≠ .absorb ∧ t = enterPhase .raw (writeW i v s) := by
  unfold execLdw at h
  split at h
  · rename_i he
    exact .inl ⟨by have := element_range he; omega, by simpa using h.symm⟩
  · rename_i i he
    have hi := element_val he
    split at h
    · exact .inr (.inl ⟨by omega, ‹_›, by simpa using h.symm⟩)
    · exact .inr (.inr ⟨i, hi, ‹_›, by simpa using h.symm⟩)

theorem execComp_cases {s t : State} (h : execComp s = .next t) :
    (s.PHASE = .absorb ∧ t = raiseFault .sequence s) ∨
    (s.PHASE ≠ .absorb ∧ t = enterPhase .raw (compress s)) := by
  unfold execComp at h
  split at h
  · exact .inl ⟨‹_›, by simpa using h.symm⟩
  · exact .inr ⟨‹_›, by simpa using h.symm⟩

theorem execRdh_cases {idx : Byte} {s t : State} (h : execRdh idx s = .next t) :
    (4 < idx.toNat ∧ t = raiseFault .illegalField s) ∨
    ∃ i : Fin 5, i.val = idx.toNat ∧ t = rspPush (readH s i) s := by
  unfold execRdh at h
  split at h
  · rename_i he
    exact .inl ⟨by have := element_range he; omega, by simpa using h.symm⟩
  · rename_i i he
    exact .inr ⟨i, element_val he, by simpa using h.symm⟩

theorem execRdw_cases {idx : Byte} {s t : State} (h : execRdw idx s = .next t) :
    (15 < idx.toNat ∧ t = raiseFault .illegalField s) ∨
    ∃ i : Fin 16, i.val = idx.toNat ∧ t = rspPush (readW s i) s := by
  unfold execRdw at h
  split at h
  · rename_i he
    exact .inl ⟨by have := element_range he; omega, by simpa using h.symm⟩
  · rename_i i he
    exact .inr ⟨i, element_val he, by simpa using h.symm⟩

theorem execRdb_cases {idx : Byte} {s t : State} (h : execRdb idx s = .next t) :
    (19 < idx.toNat ∧ t = raiseFault .illegalField s) ∨
    ∃ j : Fin 20, j.val = idx.toNat ∧ t = rspPush ((digestByte s j).setWidth 32) s := by
  unfold execRdb at h
  split at h
  · rename_i he
    exact .inl ⟨by have := element_range he; omega, by simpa using h.symm⟩
  · rename_i i he
    exact .inr ⟨i, element_val he, by simpa using h.symm⟩

theorem execRdl_cases {idx : Byte} {s t : State} (h : execRdl idx s = .next t) :
    (1 < idx.toNat ∧ t = raiseFault .illegalField s) ∨
    ∃ k : Fin 2, k.val = idx.toNat ∧ t = rspPush (readLenHalf s k) s := by
  unfold execRdl at h
  split at h
  · rename_i he
    exact .inl ⟨by have := element_range he; omega, by simpa using h.symm⟩
  · rename_i i he
    exact .inr ⟨i, element_val he, by simpa using h.symm⟩

theorem execRdst_cases {s t : State} (h : execRdst s = .next t) : t = rspPush (status s) s := by
  simpa [execRdst] using h.symm

/-- What stands in W when a command's first compression starts, and whether a second one follows. -/
theorem loadBlock_cases {i : Instr} {s s' : State} {more : Bool} (h : loadBlock i s = some (s', more)) :
    (i = .comp ∧ s.PHASE ≠ .absorb ∧ s' = s ∧ more = false) ∨
    (∃ b, i = .putb b ∧ s.PHASE = .absorb ∧ s.N = 63 ∧
      s' = packInto (storeByte b s).BUF (storeByte b s) ∧ more = false) ∨
    (i = .final ∧ s.PHASE = .absorb ∧ s.N.val ≤ 55 ∧
      s' = packInto (padOne s.BUF s.N.val (lenField s.LEN)) s ∧ more = false) ∨
    (i = .final ∧ s.PHASE = .absorb ∧ ¬ s.N.val ≤ 55 ∧
      s' = packInto (padFirst s.BUF s.N.val) s ∧ more = true) := by
  cases i <;> simp only [loadBlock, reduceCtorEq] at h
  · rename_i b
    split at h
    · rename_i hc
      obtain ⟨h1, h2⟩ := Prod.mk.inj (Option.some.inj h)
      exact .inr (.inl ⟨b, rfl, hc.1, hc.2, h1.symm, h2.symm⟩)
    · simp at h
  · split at h
    · rename_i hp
      split at h
      · rename_i hn
        obtain ⟨h1, h2⟩ := Prod.mk.inj (Option.some.inj h)
        exact .inr (.inr (.inl ⟨rfl, hp, by simpa [oneFinalBlock] using hn, h1.symm, h2.symm⟩))
      · rename_i hn
        obtain ⟨h1, h2⟩ := Prod.mk.inj (Option.some.inj h)
        exact .inr (.inr (.inr ⟨rfl, hp, by simpa [oneFinalBlock] using hn, h1.symm, h2.symm⟩))
    · simp at h
  · split at h
    · simp at h
    · rename_i hp
      obtain ⟨h1, h2⟩ := Prod.mk.inj (Option.some.inj h)
      exact .inl ⟨rfl, hp, h1.symm, h2.symm⟩

end Sys2Proof.Machine
end

