-- ==== Sys2Proof/Laws/Compression.lean ====
section
/-! SUPPORT. What the compression reads and writes, said once: it depends on H and W alone, and writes H,
W, the working variables and T alone. -/

namespace Sys2Proof.Machine

/-- Two states agree on everything a ROUND reads and writes. -/
def SamePipeline (s u : State) : Prop :=
  u.W = s.W ∧ u.A = s.A ∧ u.B = s.B ∧ u.C = s.C ∧ u.D = s.D ∧ u.E = s.E ∧ u.T = s.T

/-- ROUND reads nothing but the ring, the working variables and T (R94). -/
theorem roundStep_samePipeline (s u : State) (h : SamePipeline s u) :
    SamePipeline (roundStep s) (roundStep u) := by
  obtain ⟨hW, hA, hB, hC, hD, hE, hT⟩ := h
  unfold roundStep SamePipeline
  simp only [hT, hW, hA, hB, hC, hD, hE]
  split <;> simp_all

/-- So do any number of rounds. -/
theorem roundsStep_samePipeline (n : Nat) (s u : State) (h : SamePipeline s u) :
    SamePipeline (roundsStep n s) (roundsStep n u) := by
  induction n generalizing s u with
  | zero => exact h
  | succ n ih => exact ih _ _ (roundStep_samePipeline s u h)

/-- START copies H alone (R93). -/
theorem startStep_samePipeline (s u : State) (hH : u.H = s.H) (hW : u.W = s.W) :
    SamePipeline (startStep s) (startStep u) := by
  simp [SamePipeline, hH, hW]

/-- FOLD leaves the pipeline as it is (R98). -/
theorem foldStep_samePipeline (s u : State) (h : SamePipeline s u) :
    SamePipeline (foldStep s) (foldStep u) := h

/-- START, `n` rounds and FOLD as an update of the state, for any `n`: the number stays a variable here,
so that no check ever runs the rounds. -/
theorem foldRounds_eq_of_same (n : Nat) (s u : State) (hH : u.H = s.H) (hW : u.W = s.W) :
    foldStep (roundsStep n (startStep u)) =
      { u with
        H := (foldStep (roundsStep n (startStep s))).H
        W := (foldStep (roundsStep n (startStep s))).W
        A := (foldStep (roundsStep n (startStep s))).A
        B := (foldStep (roundsStep n (startStep s))).B
        C := (foldStep (roundsStep n (startStep s))).C
        D := (foldStep (roundsStep n (startStep s))).D
        E := (foldStep (roundsStep n (startStep s))).E
        T := (foldStep (roundsStep n (startStep s))).T } := by
  obtain ⟨h1, h2, h3, h4, h5, h6, h7⟩ :=
    roundsStep_samePipeline n _ _ (startStep_samePipeline s u hH hW)
  ext1 <;> simp only [foldStep_H, foldStep_W, foldStep_A, foldStep_B, foldStep_C, foldStep_D,
    foldStep_E, foldStep_T, foldStep_BUF, foldStep_N, foldStep_LEN, foldStep_PHASE, foldStep_ERR,
    foldStep_ECODE, foldStep_RSPD, foldStep_RSPV, foldStep_INFLIGHT, foldStep_host, foldStep_rspReady,
    foldStep_received, roundsStep_H, roundsStep_BUF, roundsStep_N, roundsStep_LEN, roundsStep_PHASE,
    roundsStep_ERR, roundsStep_ECODE, roundsStep_RSPD, roundsStep_RSPV, roundsStep_INFLIGHT,
    roundsStep_host, roundsStep_rspReady, roundsStep_received, startStep_H, startStep_BUF, startStep_N,
    startStep_LEN, startStep_PHASE, startStep_ERR, startStep_ECODE, startStep_RSPD, startStep_RSPV,
    startStep_INFLIGHT, startStep_host, startStep_rspReady, startStep_received, hH, h1, h2, h3, h4, h5,
    h6, h7]

/-- The compression as an update of the state: what a state with the same H and W gets from it, and
every other element its own (R99). -/
theorem compress_eq_of_same (s u : State) (hH : u.H = s.H) (hW : u.W = s.W) :
    compress u =
      { u with
        H := (compress s).H, W := (compress s).W, A := (compress s).A, B := (compress s).B
        C := (compress s).C, D := (compress s).D, E := (compress s).E, T := (compress s).T } := by
  simp only [compress]
  exact foldRounds_eq_of_same 80 s u hH hW

/-- Every compression ends with T = 80 when it starts: START sets T to 0 and each round counts on. -/
theorem roundsStep_T (n : Nat) (s : State) (h : s.T.val + n ≤ 80) :
    (roundsStep n s).T.val = s.T.val + n := by
  induction n generalizing s with
  | zero => rfl
  | succ n ih =>
    have hlt : s.T.val < 80 := by omega
    have hT : (roundStep s).T.val = s.T.val + 1 := by rw [roundStep_enabled s hlt]
    rw [roundsStep_succ, ih _ (by omega), hT]
    omega

theorem foldRounds_T (n : Nat) (s : State) (h : n ≤ 80) :
    (foldStep (roundsStep n (startStep s))).T.val = n := by
  rw [foldStep_T, roundsStep_T n (startStep s) (by simpa using h)]
  simp

/-- T after a compression (R17, R99). -/
theorem compress_T (s : State) : (compress s).T = 80 := by
  rw [compress]
  exact Fin.ext (foldRounds_T 80 s (Nat.le_refl 80))

/-- The sequencer is nothing to the compression. -/
theorem compress_withInflight (x : Inflight) (s : State) :
    compress (withInflight x s) = withInflight x (compress s) := by
  rw [compress_eq_of_same s (withInflight x s) rfl rfl]
  ext1 <;> simp

/-- Nor is the host's list of actions. -/
theorem compress_takeOff (rest : List HostAct) (s : State) :
    compress (takeOff rest s) = takeOff rest (compress s) := by
  rw [compress_eq_of_same s (takeOff rest s) rfl rfl]
  ext1 <;> simp

end Sys2Proof.Machine
end

