-- ==== Sys2Proof/Laws/Micro.lean ====
section
/-! SUPPORT. What the micro-steps of one compression come to, said once. The number of rounds is a
variable with `N = 80` beside it wherever a state of 80 rounds is written, so that no check ever runs
them. -/

namespace Sys2Proof.Machine

/-- With the rounds of a compression running, micro-steps are ROUNDs until T is 80 (R94). -/
theorem microSteps_rounds (i : Instr) (more : Bool) (n : Nat) (s : State)
    (hf : s.INFLIGHT = .rounds i more) (hT : s.T.val + n ≤ 80) :
    microSteps n s = .next (roundsStep n s) := by
  induction n generalizing s with
  | zero => rfl
  | succ n ih =>
    have hlt : s.T.val < 80 := by omega
    simp only [microSteps, microStep, hf, hlt, if_true, roundsStep_succ]
    apply ih
    · simpa using hf
    · rw [roundStep_enabled s hlt]
      simp only
      omega

/-- START and the rounds of a compression (R93, R94). -/
theorem microSteps_start_rounds (i : Instr) (more : Bool) (n : Nat) (hn : n ≤ 80) (s : State)
    (hf : s.INFLIGHT = .start i more) :
    microSteps (1 + n) s =
      .next (roundsStep n (withInflight (.rounds i more) (startStep s))) := by
  have h1 : microSteps 1 s = .next (withInflight (.rounds i more) (startStep s)) := by
    simp only [microSteps, microStep, hf]
  rw [microSteps_add 1 n _ _ h1]
  refine microSteps_rounds i more n _ rfl ?_
  simpa using hn

/-- A whole compression of a command in flight: START, 80 ROUNDs and the FOLD edge are 82 micro-steps
(R99, R184). -/
theorem microSteps_compression (i : Instr) (more : Bool) (N : Nat) (hN : N = 80) (s : State)
    (hf : s.INFLIGHT = .start i more) :
    microSteps (1 + N + 1) s =
      .next (foldEdge i more (roundsStep N (withInflight (.rounds i more) (startStep s)))) := by
  rw [microSteps_add (1 + N) 1 _ _ (microSteps_start_rounds i more N (by omega) s hf)]
  have hT := roundsStep_T N (withInflight (.rounds i more) (startStep s)) (by simp [hN])
  have hge : ¬ (roundsStep N (withInflight (.rounds i more) (startStep s))).T.val < 80 := by
    rw [hT]
    simp [hN]
  have hI : (roundsStep N (withInflight (.rounds i more) (startStep s))).INFLIGHT
      = .rounds i more := by rw [roundsStep_INFLIGHT, withInflight_INFLIGHT]
  simp only [microSteps, microStep, hI, if_neg hge]

end Sys2Proof.Machine
end

