-- ==== Sys2Proof/Laws/PerInstr.lean ====
section
/-! SUPPORT. Per-command lemmas about commands as syntax: the three fields of an encoded word. -/

namespace Sys2Proof.Laws.EncodedFields

/-- The opcode of a command (R67). -/
def opcode : Instr → Byte
  | .nop => 0x00
  | .init => 0x01
  | .putb _ => 0x02
  | .final => 0x03
  | .ldh _ _ => 0x04
  | .ldw _ _ => 0x05
  | .comp => 0x06
  | .rdh _ => 0x07
  | .rdw _ => 0x08
  | .rdb _ => 0x09
  | .rdl _ => 0x0A
  | .rdst => 0x0B

/-- The idx operand of a command, 0 where its format has none. -/
def index : Instr → Byte
  | .ldh idx _ | .ldw idx _ | .rdh idx | .rdw idx | .rdb idx | .rdl idx => idx
  | .nop | .init | .putb _ | .final | .comp | .rdst => 0

/-- The data field of a command, 0 where its format has none. -/
def immediate : Instr → Word
  | .putb imm8 => dataOfByte imm8
  | .ldh _ imm32 | .ldw _ imm32 => imm32
  | .nop | .init | .final | .comp | .rdh _ | .rdw _ | .rdb _ | .rdl _ | .rdst => 0

/-- The encoder puts the opcode and the operands in the three fields of rule R62. -/
def Statement (i : Instr) : Prop :=
  opField (encode i) = opcode i ∧ idxField (encode i) = index i ∧ dataField (encode i) = immediate i

theorem nop : Statement .nop := by simp [Statement, encode, opcode, index, immediate]
theorem init : Statement .init := by simp [Statement, encode, opcode, index, immediate]
theorem putb (imm8 : Byte) : Statement (.putb imm8) := by
  simp [Statement, encode, opcode, index, immediate]
theorem final : Statement .final := by simp [Statement, encode, opcode, index, immediate]
theorem ldh (idx : Byte) (imm32 : Word) : Statement (.ldh idx imm32) := by
  simp [Statement, encode, opcode, index, immediate]
theorem ldw (idx : Byte) (imm32 : Word) : Statement (.ldw idx imm32) := by
  simp [Statement, encode, opcode, index, immediate]
theorem comp : Statement .comp := by simp [Statement, encode, opcode, index, immediate]
theorem rdh (idx : Byte) : Statement (.rdh idx) := by
  simp [Statement, encode, opcode, index, immediate]
theorem rdw (idx : Byte) : Statement (.rdw idx) := by
  simp [Statement, encode, opcode, index, immediate]
theorem rdb (idx : Byte) : Statement (.rdb idx) := by
  simp [Statement, encode, opcode, index, immediate]
theorem rdl (idx : Byte) : Statement (.rdl idx) := by
  simp [Statement, encode, opcode, index, immediate]
theorem rdst : Statement .rdst := by simp [Statement, encode, opcode, index, immediate]

end Sys2Proof.Laws.EncodedFields
end

