-- ==== Sys2Proof/Laws/Step.lean ====
section
/-! SUPPORT. Which branch of the step is taken, said once: a lemma per branch, each under the condition
on the state alone. Beside them the small lemmas of runs and of the words inside a message. -/

namespace Sys2Proof.Machine

/-- The engine takes a word exactly when it is idle and no response waits (R29). -/
theorem canAccept_iff (s : State) :
    canAccept s = true ↔ s.INFLIGHT = .idle ∧ s.RSPV = false := by
  simp [canAccept, idle]

/-- A word that is taken is performed on the state with the word taken off. -/
theorem step_presents (s : State) (w : CmdWord) (rest : List HostAct) (h : Presents s w rest) :
    step s = execWord w (takeOff rest s) := by
  obtain ⟨hc, hh⟩ := h
  rw [canAccept_iff] at hc
  simp [step, hh, idle, hc.1, hc.2]

/-- A word given by its fields. -/
theorem step_presents_fields (s : State) (op idx : Byte) (data : Word) (rest : List HostAct)
    (h : Presents s (cmdWord op idx data) rest) :
    step s =
      match decodeFields op idx data with
      | .error code => .next (raiseFault code (takeOff rest s))
      | .ok i => exec i (takeOff rest s) := by
  rw [step_presents s _ rest h, execWord, decode_cmdWord]
  all_goals (cases decodeFields op idx data <;> rfl)

/-- A waiting response the host takes is handed over before the next word. -/
theorem step_handOver (s : State) (w : CmdWord) (rest : List HostAct) (hh : s.host = .command w :: rest)
    (hi : s.INFLIGHT = .idle) (hv : s.RSPV = true) (hr : s.rspReady = true) :
    step s = .next (handOver s) := by
  simp [step, hh, idle, hi, hv, hr]

/-- A run of `m + n` steps is a run of `m` and then one of `n`. -/
theorem run_add (m n : Nat) (s t : State) (h : run m s = .next t) : run (m + n) s = run n t := by
  induction m generalizing s with
  | zero => simp [run] at h; simp [h]
  | succ m ih =>
    rw [Nat.succ_add]
    simp only [run] at h ⊢
    cases hs : step s with
    | next s' => simp only [hs] at h ⊢; exact ih s' h
    | fault r => simp [hs] at h
    | refused r => simp [hs] at h

/-- The message of no words. -/
@[simp] theorem absorbed_nil : absorbed [] = [] := rfl

/-- The message of a word and further words. -/
theorem absorbed_cons (w : CmdWord) (ws : List CmdWord) :
    absorbed (w :: ws) = (messageByte w).toList ++ absorbed ws := by
  cases h : messageByte w <;> simp [absorbed, h]

/-- Messages of two lists of words, one after the other. -/
theorem absorbed_append (us ws : List CmdWord) : absorbed (us ++ ws) = absorbed us ++ absorbed ws := by
  simp [absorbed]

/-- No words, no responses. -/
@[simp] theorem responseCount_nil : responseCount [] = 0 := rfl

/-- A word brings one response when it is a read that does not fault. -/
theorem responseCount_cons (w : CmdWord) (ws : List CmdWord) :
    responseCount (w :: ws) = (if responds w then 1 else 0) + responseCount ws := by
  cases h : responds w <;> simp [responseCount, h, Nat.add_comm]

/-- The run of the statements is the host's own run of the machine. -/
theorem run_one (s : State) : run 1 s = step s := by
  simp only [run]
  cases step s <;> rfl

end Sys2Proof.Machine
end

