-- ==== Sys2Proof/Tests/Slice0.lean ====
section
/-! SUPPORT. The model's own tests. Every expected value is written out from the spec: the words from
rules R62 to R72 and vectors V2.1 to V2.4, the results from the vectors of 95_test_vectors.md that each
test names. Then one witness per statement that has hypotheses: a state and operands that meet them. -/

namespace Sys2Proof.Tests

open Sys2Proof Sys2Proof.Machine

/-! ## Helpers -/

/-- One part of the next state, if there is a next state. -/
def seen {α : Type} (f : State → α) : Host.Outcome State Fault Refusal → Option α
  | .next s => some (f s)
  | .fault _ => none
  | .refused _ => none

/-- The engine after reset with one word presented. -/
def presenting (w : CmdWord) (s : State) : State := { s with host := [.command w] }

/-- A message in progress: `n` bytes 0x78 of a tail, `len` absorbed in all. -/
def absorbing (n : Fin 64) (len : Len) : State :=
  { State.reset with
    BUF := Vector.ofFn fun j : Fin 64 => if j < n then 0x78 else 0
    N := n, LEN := len, PHASE := .absorb }

/-- The digest of "abc" (V3.1), held in DONE. -/
def doneAbc : State :=
  { State.reset with
    H := #v[0xA9993E36, 0x4706816A, 0xBA3E2571, 0x7850C26C, 0x9CD0D89D], LEN := 3, PHASE := .done }

/-- The padded block of "abc" (V3.1) loaded. -/
def blockAbc : State :=
  { State.reset with W := #v[0x61626380, 0, 0, 0, 0, 0, 0, 0, 0, 0, 0, 0, 0, 0, 0, 0x00000018] }

/-- A command with the rounds of its compression all made. -/
def atFold (i : Instr) (more : Bool) (p : Phase) (n : Fin 64) : State :=
  { State.reset with A := 1, T := 80, PHASE := p, N := n, LEN := BitVec.ofNat 64 n.val,
                     INFLIGHT := .rounds i more }

/-- A response waiting. -/
def responding : State := { State.reset with RSPD := 0xA9993E36, RSPV := true }

/-- A fault recorded: SEQUENCE. -/
def faulted : State := { State.reset with ERR := true, ECODE := some .sequence }

/-! ## WellFormed: each check refuses an ill-formed term (R70) -/

theorem test_wf_ldh : (Instr.ldh 5 0).wellFormed = false ∧ (Instr.ldh 4 0).wellFormed = true := by decide
theorem test_wf_ldw : (Instr.ldw 16 0).wellFormed = false ∧ (Instr.ldw 15 0).wellFormed = true := by
  decide
theorem test_wf_rdh : (Instr.rdh 5).wellFormed = false ∧ (Instr.rdh 4).wellFormed = true := by decide
theorem test_wf_rdw : (Instr.rdw 16).wellFormed = false ∧ (Instr.rdw 15).wellFormed = true := by decide
theorem test_wf_rdb : (Instr.rdb 20).wellFormed = false ∧ (Instr.rdb 19).wellFormed = true := by decide
theorem test_wf_rdl : (Instr.rdl 2).wellFormed = false ∧ (Instr.rdl 1).wellFormed = true := by decide

/-! ## Decoding (V2.1, V2.2, V2.3): op in bits 47:40, idx in 39:32, data in 31:0 -/

theorem test_decode_z :
    decode 0x000000000000 = .ok .nop ∧ decode 0x010000000000 = .ok .init ∧
    decode 0x030000000000 = .ok .final ∧ decode 0x060000000000 = .ok .comp ∧
    decode 0x0B0000000000 = .ok .rdst := by decide
theorem test_decode_b :
    decode 0x020000000061 = .ok (.putb 0x61) ∧ decode 0x0200000000FF = .ok (.putb 0xFF) ∧
    decode 2199023255649 = .ok (.putb 0x61) := by decide
theorem test_decode_xw :
    decode 0x050F00000018 = .ok (.ldw 15 0x18) ∧ decode 0x0404C3D2E1F0 = .ok (.ldh 4 0xC3D2E1F0) := by
  decide
theorem test_decode_x :
    decode 0x070400000000 = .ok (.rdh 4) ∧ decode 0x080F00000000 = .ok (.rdw 15) ∧
    decode 0x091300000000 = .ok (.rdb 19) ∧ decode 0x0A0100000000 = .ok (.rdl 1) := by decide
/-- V2.3, the words with a must-be-zero field not zero, by format. -/
theorem test_decode_illegal_zero_fields :
    decode 0x000000000001 = .error .illegalField ∧ decode 0x000100000000 = .error .illegalField ∧
    decode 0x010000000001 = .error .illegalField ∧ decode 0x030100000000 = .error .illegalField ∧
    decode 0x060000000001 = .error .illegalField ∧ decode 0x0B0100000000 = .error .illegalField ∧
    decode 0x020000000100 = .error .illegalField ∧ decode 0x020100000000 = .error .illegalField ∧
    decode 0x070000000001 = .error .illegalField := by decide
/-- V2.3, an index one above the range. -/
theorem test_decode_illegal_index :
    decode 0x040500000000 = .error .illegalField ∧ decode 0x051000000000 = .error .illegalField ∧
    decode 0x070500000000 = .error .illegalField ∧ decode 0x081000000000 = .error .illegalField ∧
    decode 0x091400000000 = .error .illegalField ∧ decode 0x0A0200000000 = .error .illegalField := by
  decide
theorem test_decode_illegal_opcode :
    decode 0x0C0000000000 = .error .illegalOpcode ∧ decode 0xFFFFFFFFFFFF = .error .illegalOpcode ∧
    decode 0x0C0100000001 = .error .illegalOpcode := by decide
/-- V2.4: the pseudo-commands. -/
theorem test_pseudo_commands :
    (digestCommands [0x61, 0x62, 0x63]).map encode =
      [0x010000000000, 0x020000000061, 0x020000000062, 0x020000000063, 0x030000000000] ∧
    ldiv.map encode =
      [0x040067452301, 0x0401EFCDAB89, 0x040298BADCFE, 0x040310325476, 0x0404C3D2E1F0] := by decide
/-- R78: "An assembler refuses an operand outside its range". -/
theorem test_assemble_refuses :
    assemble (.ldh 5 0) = none ∧ assemble (.rdb 19) = some 0x091300000000 := by decide

/-! ## Operators and padding (V3.0, V4.0) -/

theorem test_rotations :
    rotl 1 0x61626380 = 0xC2C4C700 ∧ rotl 5 0x67452301 = 0xE8A4602C ∧ rotl 5 0xF8000000 = 0x1F ∧
    rotl 30 0xEFCDAB89 = 0x7BF36AE2 ∧ add32 0xC3D2E1F0 0xD8FDF6AD = 0x9CD0D89D := by decide
theorem test_stage_functions :
    stageF 19 0xFFFF0000 0x00FFFF00 0x0F0F0F0F = 0x00FF0F0F ∧
    stageF 20 0xFD9E1D7D 0x77192407 0x20AA99CA = 0xAA2DA0B0 ∧
    stageF 40 0x32DE1CBA 0x53261901 0xF718E5CF = 0x731E1D8B ∧
    stageF 79 0xFFFF0000 0x00FFFF00 0x0F0F0F0F = 0xF00FF00F := by decide
theorem test_lenField :
    lenField 56 = #v[0, 0, 0, 0, 0, 0, 0x01, 0xC0] ∧
    lenField 0x20000000 = #v[0, 0, 0, 0x01, 0, 0, 0, 0] ∧
    lenField 0x1FFFFFFFFFFFFFFF = #v[0xFF, 0xFF, 0xFF, 0xFF, 0xFF, 0xFF, 0xFF, 0xF8] := by decide
/-- V3.2: S[16] and S[19] of the block of "abc". -/
theorem test_schedule : schedule blockAbc.W 16 = 0xC2C4C700 ∧ schedule blockAbc.W 19 = 0x85898E01 := by
  decide
/-- V3.1, the row t = 16: the first expanded word and the round that uses it. -/
theorem test_round_16 :
    (roundsStep 17 (startStep blockAbc)).A = 0x4E925823 ∧
    (roundsStep 17 (startStep blockAbc)).W[0] = 0xC2C4C700 := by decide +kernel
/-- V1.1: the empty message, by the reference. -/
theorem test_reference_digest :
    digest [] = #v[0xDA39A3EE, 0x5E6B4B0D, 0x3255BFEF, 0x95601890, 0xAFD80709] := by decide +kernel

/-! ## One step of each command -/

/-- R131. -/
theorem test_nop : seen id (step (presenting 0x000000000000 doneAbc)) = some doneAbc := by decide
/-- V4.13, from ABSORB with N = 3: the bytes are forgotten, the fault record and BUF are kept. -/
theorem test_init :
    seen (fun t => (t.H, t.LEN, t.N, t.BUF[0], status t))
      (step (presenting 0x010000000000 { absorbing 3 3 with ERR := true, ECODE := some .sequence }))
      = some (iv, 0, 0, 0x78, 0x00000039) := by decide
/-- R114: the first byte of a message. -/
theorem test_putb :
    seen (fun t => (t.BUF[0], t.N, t.LEN, t.H, status t))
      (step (presenting 0x020000000061 (absorbing 0 0)))
      = some (0x61, 1, 1, iv, 0x00000101) := by decide
/-- V4.10, V4.4: the 64th byte compresses the block. -/
theorem test_putb_block :
    seen (fun t => (t.H, t.N, t.LEN, t.PHASE)) (step (presenting 0x020000000078 (absorbing 63 63)))
      = some (#v[0x7D1AD24A, 0xE9C50FC0, 0x93975AF4, 0xC6EE8B35, 0x176F1C6A], 0, 64, .absorb) := by
  decide +kernel
/-- V4.1: a tail of 55 bytes, one final block. -/
theorem test_final_one :
    seen (fun t => (t.H, t.N, t.LEN, status t)) (step (presenting 0x030000000000 (absorbing 55 55)))
      = some (#v[0xCEF734BA, 0x81A02447, 0x9E09EB5A, 0x75B6DDAE, 0x62E6ABF1], 0, 55, 2) := by
  decide +kernel
/-- V4.2, V4.11: a tail of 56 bytes, two final blocks. -/
theorem test_final_two :
    seen (fun t => (t.H, t.W[15], t.PHASE)) (step (presenting 0x030000000000 (absorbing 56 56)))
      = some (#v[0x90130536, 0x7C259952, 0xF4E7AF83, 0x23F480D5, 0x9F81335B], 0x04C77400, .done) := by
  decide +kernel
/-- V3.9: one word of H is loaded. -/
theorem test_ldh :
    seen (fun t => t.H) (step (presenting 0x0402DEADBEEF State.reset))
      = some #v[0x67452301, 0xEFCDAB89, 0xDEADBEEF, 0x10325476, 0xC3D2E1F0] := by decide
/-- V3.9, V6.8: LDH in DONE leaves DONE. -/
theorem test_ldh_done :
    seen (fun t => (t.H[0], t.PHASE, doneO t, status t)) (step (presenting 0x040000000000 doneAbc))
      = some (0, .raw, false, 0) := by decide
/-- V3.9. -/
theorem test_ldw :
    seen (fun t => (t.W[6], t.W[7], t.W[8])) (step (presenting 0x050700000001 State.reset))
      = some (0, 1, 0) := by decide
/-- V6.6: LDW in ABSORB. -/
theorem test_ldw_absorb :
    seen (fun t => (t.W[0], status t)) (step (presenting 0x050000000001 (absorbing 0 0)))
      = some (0, 0x00000039) := by decide
/-- V3.1, V3.3: the compression of the block of "abc". -/
theorem test_comp :
    seen (fun t => (t.H, t.W[0], t.W[15], t.E, t.PHASE)) (step (presenting 0x060000000000 blockAbc))
      = some (#v[0xA9993E36, 0x4706816A, 0xBA3E2571, 0x7850C26C, 0x9CD0D89D], 0x7CD45C9D, 0x822E0879,
              0xD8FDF6AD, .raw) := by decide +kernel
/-- V3.5: COMP straight after reset. -/
theorem test_comp_reset :
    seen (fun t => (t.H, t.T)) (step (presenting 0x060000000000 State.reset))
      = some (#v[0x92B404E5, 0x56588CED, 0x6C1ACD4E, 0xBF053F68, 0x09F73A93], 80) := by decide +kernel
/-- V5.1. -/
theorem test_rdh :
    seen (fun t => (t.RSPD, t.RSPV)) (step (presenting 0x070400000000 doneAbc))
      = some (0x9CD0D89D, true) := by decide
/-- V6.13: a faulting read gives no response. -/
theorem test_rdh_fault :
    seen (fun t => (status t, t.RSPV)) (step (presenting 0x070500000000 State.reset))
      = some (0x00000028, false) := by decide
/-- V3.1 loaded: RDW gives the block word as it stands. -/
theorem test_rdw :
    seen (fun t => t.RSPD) (step (presenting 0x080F00000000 blockAbc)) = some 0x00000018 := by decide
/-- V5.2: bytes are zero-extended; RDB 4 is the top byte of H[1]. -/
theorem test_rdb :
    seen (fun t => t.RSPD) (step (presenting 0x090000000000 doneAbc)) = some 0x000000A9 ∧
    seen (fun t => t.RSPD) (step (presenting 0x090400000000 doneAbc)) = some 0x00000047 ∧
    seen (fun t => t.RSPD) (step (presenting 0x091300000000 doneAbc)) = some 0x0000009D := by decide
/-- R136: the halves by significance. -/
theorem test_rdl :
    seen (fun t => t.RSPD) (step (presenting 0x0A0000000000 (absorbing 0 0x0000000100000040)))
      = some 0x40 ∧
    seen (fun t => t.RSPD) (step (presenting 0x0A0100000000 (absorbing 0 0x0000000100000040)))
      = some 1 := by decide
/-- V5.7: ABSORB, SEQUENCE recorded, N = 3. -/
theorem test_rdst :
    seen (fun t => t.RSPD)
      (step (presenting 0x0B0000000000 { absorbing 3 3 with ERR := true, ECODE := some .sequence }))
      = some 0x00000339 := by decide
/-- V6.1, V6.3, V6.5, V6.7: the sequence faults. -/
theorem test_sequence_faults :
    seen status (step (presenting 0x020000000061 State.reset)) = some 0x00000038 ∧
    seen status (step (presenting 0x020000000061 doneAbc)) = some 0x0000003A ∧
    seen status (step (presenting 0x040000000001 (absorbing 0 0))) = some 0x00000039 ∧
    seen status (step (presenting 0x060000000000 (absorbing 0 0))) = some 0x00000039 := by decide
/-- V6.11 and V6.12: the first fault wins; the order of the checks. -/
theorem test_fault_priority :
    seen status (step (presenting 0x0C0000000000 faulted)) = some 0x00000038 ∧
    seen status (step (presenting 0x020100000000 State.reset)) = some 0x00000028 ∧
    seen status (step (presenting 0x040500000000 (absorbing 0 0))) = some 0x00000029 ∧
    seen status (step (presenting 0x0C0100000001 (absorbing 0 0))) = some 0x00000019 := by decide
/-- V7.2, V7.3: reset clears a fault and drops a response. -/
theorem test_reset :
    seen id (step { faulted with RSPV := true, RSPD := 5, host := [.reset] }) = some State.reset := by decide
/-- R28: the hand-over of a response. -/
theorem test_handOver :
    seen id (step responding) = some { responding with RSPV := false, received := [0xA9993E36] } := by decide
/-- R172: digest_o after reset. -/
theorem test_digestO : digestO State.reset = 0x67452301EFCDAB8998BADCFE10325476C3D2E1F0 := by decide
/-- V5: Hex40 of the digest of "abc". -/
theorem test_hex40 :
    hex40 doneAbc.H = ['a', '9', '9', '9', '3', 'e', '3', '6', '4', '7', '0', '6', '8', '1', '6', 'a']
      ++ ['b', 'a', '3', 'e', '2', '5', '7', '1', '7', '8', '5', '0', 'c', '2', '6', 'c']
      ++ ['9', 'c', 'd', '0', 'd', '8', '9', 'd'] := by decide
/-- R67, R131: the host's table word runs as the first instruction after reset. -/
theorem test_withFetchWord :
    decodeTableWord 48 0x070400000000 = some (.rdh 4) ∧
    seen (fun t => (t.RSPD, t.RSPV)) (step (State.reset.withFetchWord 48 0x070400000000))
      = some (0xC3D2E1F0, true) := by decide

/-! ## Witnesses: the hypotheses of each statement can be met, at the ends of their ranges -/

/-- The eighty schedule words of the block of "abc" (V3.2). -/
def scheduleAbc : List Word :=
  [0x61626380, 0, 0, 0, 0, 0, 0, 0, 0, 0, 0, 0, 0, 0, 0, 0x18]
  ++ [0xC2C4C700, 0x00000000, 0x00000030, 0x85898E01, 0x00000000, 0x00000060, 0x0B131C03, 0x00000030]
  ++ [0x85898EC1, 0x16263806, 0x00000000, 0x00000180, 0x2C4C700C, 0x000000F0, 0x93AFB507, 0x5898E048]
  ++ [0x8E9A9202, 0x00000600, 0xB131C0F0, 0x16263BC6, 0x4EBED41E, 0x626380A1, 0x16263806, 0x000018C0]
  ++ [0xD2E138C4, 0x00000F00, 0x3AFB5079, 0x898E04E5, 0xE2BA3C2B, 0x000060C0, 0x053A37CD, 0x74458547]
  ++ [0xDA9415ED, 0x26380A16, 0x626383A1, 0x4EBF54DE, 0x3835B44B, 0x0000F600, 0x1E84C7A3, 0x98E04D98]
  ++ [0x651D16A0, 0x62658CA1, 0x458544D6, 0x44584CB7, 0x7BA06619, 0x6380AEA2, 0x0AE55269, 0x627B49A1]
  ++ [0x7CD45C9D, 0x000F0000, 0xFB50753A, 0xEC6765E8, 0xBA3C2BE2, 0x0060C000, 0x3A37CD05, 0x458546F4]
  ++ [0xB8599DD6, 0x380A1A26, 0x01E02203, 0xE7CC3456, 0xE6E60B69, 0x00F60A00, 0x5795EF4F, 0x822E0879]

/-- RingHoldsSchedule, CompressIsPureFunction: the schedule of V3.2 is one; `t` = 15 and 79. -/
theorem witness_IsSchedule : IsSchedule blockAbc.W fun t => scheduleAbc.getD t 0 := by
  have h1 : ∀ t (h : t < 16), scheduleAbc.getD t 0 = blockAbc.W[t] := by decide
  have h2 : ∀ t < 80, 16 ≤ t → scheduleAbc.getD t 0 =
      rotl 1 (scheduleAbc.getD (t - 3) 0 ^^^ scheduleAbc.getD (t - 8) 0
        ^^^ scheduleAbc.getD (t - 14) 0 ^^^ scheduleAbc.getD (t - 16) 0) := by decide +kernel
  exact ⟨h1, fun t a b => h2 t b a⟩

/-- Every statement over `Presents`: MicroStepsRefineCommand, WordEffect in the statements of the
commands, PhaseTransitions, StepRunsDecodedCommand; for any word whatever. -/
theorem witness_Presents (w : CmdWord) : Presents (presenting w State.reset) w [] := ⟨rfl, rfl⟩

/-- ResetEdgeAndStickyFault: a command in flight; an edge without `rst` after a fault. -/
theorem witness_ResetEdgeAndStickyFault :
    (PinsIn.mk true true 0x060000000000 true).rst = true ∧ faulted.ERR = true ∧
    ∃ t, clockEdge 1 (PinsIn.mk false true 0x010000000000 true) faulted = .next t := ⟨rfl, rfl, _, rfl⟩

/-- ResetTakenInEveryState, PhaseTransitions: `rst` in the middle of a compression. -/
theorem witness_ResetTakenInEveryState :
    { atFold .comp false .raw 0 with host := [.reset] }.host = .reset :: [] ∧
    ∃ t, step { atFold .comp false .raw 0 with host := [.reset] } = .next t := ⟨rfl, _, rfl⟩

/-- PhaseTransitions: a word that is taken, and one that its phase bars. -/
theorem witness_PhaseTransitions :
    (∃ t, step (presenting 0x010000000000 doneAbc) = .next t) ∧
    decode 0x060000000000 = .ok .comp ∧
    phaseBad (opField 0x060000000000) (presenting 0x060000000000 (absorbing 0 0)).PHASE :=
  ⟨⟨_, rfl⟩, by decide, rfl⟩

/-- CommandsWriteOnlyTheirElements: LDH 4, LDW 15, PUTB with N = 62 and with N = 63, another element. -/
theorem witness_CommandsWriteOnlyTheirElements :
    (∃ t, exec (.ldh 4 7) State.reset = .next t) ∧ (3 : Fin 5).val ≠ (4 : Byte).toNat ∧
    (∃ t, exec (.ldw 15 7) State.reset = .next t) ∧ (0 : Fin 16).val ≠ (15 : Byte).toNat ∧
    (∃ t, exec (.putb 1) (absorbing 62 62) = .next t) ∧ (absorbing 62 62).N ≠ 63 ∧
    (∃ t, exec (.putb 1) (absorbing 63 63) = .next t) ∧ (0 : Fin 64) ≠ (absorbing 63 63).N ∧
    .BUF ∉ mayWrite .final := by
  refine ⟨⟨_, rfl⟩, by decide, ⟨_, rfl⟩, by decide, ⟨_, rfl⟩, by decide, ⟨_, rfl⟩, by decide, by decide⟩

/-- FaultRecordDoesNotInfluence. -/
theorem witness_FaultRecordDoesNotInfluence : Instr.final ≠ .rdst := by decide

/-- RotationAndAddition: each of the three amounts is one of the three. -/
theorem witness_RotationAndAddition : ∀ n ∈ [1, 5, 30], n = 1 ∨ n = 5 ∨ n = 30 := by decide

/-- OpcodeMapSelects, EncodeOfDecode, StepRunsDecodedCommand: words at the last index of each range. -/
theorem witness_OpcodeMapSelects :
    decode 0x040412345678 = .ok (.ldh 4 0x12345678) ∧ decode 0x091300000000 = .ok (.rdb 19) ∧
    OpcodeRow.mk "RDB" 0x090000000000 0xFF00FFFFFFFF 19 ∈ opcodeMap := by decide

/-- DecodeOfEncode, ReadsChangeOnlyResponse: the last index of each range. -/
theorem witness_DecodeOfEncode :
    (∀ i ∈ [Instr.ldh 4 0xFFFFFFFF, .ldw 15 0, .rdh 4, .rdw 15, .rdb 19, .rdl 1], WellFormed i) ∧
    (∀ i ∈ [Instr.rdh 4, .rdw 15, .rdb 19, .rdl 1, .rdst], isRead i = true ∧ WellFormed i) := by decide

/-- StageFunctionsAndConstants, StageFunctionForms: the first and last round of each stage; no round is
of two stages. -/
theorem witness_StageFunctionsAndConstants :
    (0 ≤ 19 ∧ 19 ≤ 19) ∧ (20 ≤ 39 ∧ 39 ≤ 39) ∧ (40 ≤ 40 ∧ 59 ≤ 59) ∧ (60 ≤ 60 ∧ 79 ≤ 79) ∧
    ¬ 20 ≤ 19 ∧ ¬ 40 ≤ 39 ∧ ¬ 60 ≤ 59 := by decide

/-- StartAndFoldSteps: the rounds running, with T = 80 and with T = 79. -/
theorem witness_StartAndFoldSteps :
    (atFold .comp false .raw 0).INFLIGHT = .rounds .comp false ∧ (atFold .comp false .raw 0).T = 80 ∧
    { atFold .comp false .raw 0 with T := 79 }.T ≠ 80 := by decide

/-- RoundStepRule: T = 79 and T = 80; the state of the worked example. -/
theorem witness_RoundStepRule :
    { State.reset with T := 79 }.T.val < 80 ∧ { State.reset with T := 80 }.T = 80 ∧
    blockAbc.H = iv ∧ blockAbc.W[0] = 0x61626380 := by decide

/-- ChainingStateHeldUntilFold: the last ROUND of a command in flight. -/
theorem witness_ChainingStateHeldUntilFold :
    busyO { atFold .comp false .raw 0 with T := 79 } = true ∧
    (∀ w, { atFold .comp false .raw 0 with T := 79 }.INFLIGHT ≠ .accepted w) ∧
    { atFold .comp false .raw 0 with T := 79 }.T.val < 80 ∧
    ∃ t, microStep { atFold .comp false .raw 0 with T := 79 } = .next t :=
  ⟨rfl, fun w h => by simp [atFold] at h, by decide, _, rfl⟩

/-- LdhLoadsChainingWord, LdwLoadsBlockWord, CompCompressesBlock: RAW and DONE, the last index. -/
theorem witness_rawPath :
    (4 : Byte).toNat ≤ 4 ∧ (15 : Byte).toNat ≤ 15 ∧ State.reset.PHASE ≠ .absorb ∧
    doneAbc.PHASE ≠ .absorb := by decide

/-- RawPathEqualsDigestPath, DigestContract: a message, a waiting response. -/
theorem witness_DigestContract :
    ([0x61, 0x62, 0x63] : List Byte).length < 2 ^ 61 ∧ idle responding = true ∧
    responsesTaken responding = true ∧ responding.PHASE ≠ .absorb := by decide

/-- The words of program P4 between INIT and FINAL, a NOP and two reads among them. -/
def messageWords : List CmdWord :=
  [0x020000000061, 0x020000000162, 0x0B0000000000, 0x020000000062, 0x000000000000]
  ++ [0x020000000063, 0x050000000005, 0x070000000000]

/-- DigestDespiteFaults, AbsorbInvariant: those words, and an engine with a response waiting. -/
theorem witness_messageWords :
    absorbed messageWords = [0x61, 0x62, 0x63] ∧ messageWords.any faultsInAbsorb = true ∧
    responseCount messageWords = 2 ∧ responseCount messageWords.dropLast = 1 ∧
    (∀ w ∈ messageWords, insideMessage w) ∧ idle responding = true ∧ responding.rspReady = true := by
  refine ⟨by decide, by decide, by decide, by decide, ?_, rfl, rfl⟩
  have h : messageWords.all (fun w => (decode w).toOption ≠ some .init ∧
      (decode w).toOption ≠ some .final) = true := by decide
  have h' := List.all_eq_true.mp h
  exact fun w hw => ⟨fun e => (of_decide_eq_true (h' w hw)).1 (by rw [e]; rfl),
    fun e => (of_decide_eq_true (h' w hw)).2 (by rw [e]; rfl)⟩

/-- AbsorbInvariant: a state that holds a message of 63 bytes (N = 63), one of none, and one whose
response waits; the hypotheses of its clauses together. -/
theorem witness_AbsorbInvariant :
    Absorbing (List.replicate 63 0x78) (absorbing 63 63) ∧ Absorbing [] (absorbing 0 0) ∧
    Presents (presenting 0x020000000078 (absorbing 63 63)) 0x020000000078 [] ∧
    Absorbing [] { absorbing 0 0 with RSPV := true } ∧
    (∀ w rest, ¬ Presents { absorbing 0 0 with RSPV := true } w rest) := by
  have h : ∀ (r : Bool), Absorbing [] { absorbing 0 0 with RSPV := r } := fun r => by
    simp [Absorbing, absorbing, State.reset, chain, iv]
  refine ⟨?_, h false, ⟨rfl, rfl⟩, h true, fun w rest hp => by simp [Presents, canAccept] at hp⟩
  simp only [Absorbing, List.length_replicate, Nat.reduceDiv, Nat.reduceMod, Nat.reducePow, chain]
  refine ⟨rfl, by decide, by decide, fun j hj => ?_, rfl⟩
  have hj' : j < 63 := hj
  have hl : (⟨j, by omega⟩ : Fin 64) < 63 := hj'
  rw [Nat.mul_zero, Nat.zero_add, List.getElem?_replicate, if_pos hj']
  simp only [absorbing, Vector.getElem_ofFn, if_pos hl]

/-- PackBigEndian: the bytes of the rule's example. -/
theorem witness_PackBigEndian :
    let M : Vector Byte 64 := padOne (Vector.replicate 64 0x61) 3 (lenField 3)
    M[0] = 0x61 ∧ M[3] = 0x80 := by decide

/-- PaddedBlockBytes: tails of 0, 55, 56 and 63 bytes; a state with a tail of 56. -/
theorem witness_PaddedBlockBytes :
    (0 ≤ 55 ∧ 55 ≤ 55) ∧ (56 ≤ 56 ∧ 56 ≤ 63) ∧ (56 ≤ 63 ∧ 63 ≤ 63) ∧ 56 ≤ (absorbing 56 56).N.val ∧
    (∀ j : Fin 64, j.val < 55 → (absorbing 55 55).BUF[j] = (absorbing 56 56).BUF[j]) := by decide

/-- PaddedMessageBlocks: a buffer that holds the tail of a message of 3 bytes and of one of 56; a
message of 64 bytes has a full block. -/
theorem witness_PaddedMessageBlocks :
    (∀ j : Fin 64, j.val < 56 % 64 →
      (List.replicate 56 (0x78 : Byte))[64 * (56 / 64) + j.val]? = some (absorbing 56 56).BUF[j]) ∧
    56 ≤ (List.replicate 56 (0x78 : Byte)).length % 64 ∧
    (List.replicate 55 (0x78 : Byte)).length % 64 ≤ 55 ∧
    0 < (List.replicate 64 (0x78 : Byte)).length / 64 := by decide

/-- PutbAbsorbsByte, FinalPadsAndFinishes, DurationOfCommands: N = 62, 63, 55, 56; outside ABSORB. -/
theorem witness_absorbing :
    (absorbing 63 63).PHASE = .absorb ∧ (absorbing 63 63).N = 63 ∧ (absorbing 62 62).N ≠ 63 ∧
    (absorbing 55 55).N.val ≤ 55 ∧ 56 ≤ (absorbing 56 56).N.val ∧ doneAbc.PHASE ≠ .absorb := by decide

/-- StaleBytesNeverLeak: two states that differ in W, A and the stale byte BUF[63]. -/
theorem witness_StaleBytesNeverLeak :
    let s := absorbing 3 3
    let u := { absorbing 3 3 with BUF := s.BUF.set 63 0xFF, W := blockAbc.W, A := 9 }
    s.PHASE = .absorb ∧ u.PHASE = .absorb ∧ s.H = u.H ∧ s.N = u.N ∧ s.LEN = u.LEN ∧
    (∀ j : Fin 64, j < s.N → s.BUF[j] = u.BUF[j]) ∧
    (∃ s', exec .final s = .next s') ∧ ∃ u', exec .final u = .next u' :=
  ⟨rfl, rfl, rfl, rfl, rfl, by decide, ⟨_, rfl⟩, ⟨_, rfl⟩⟩

/-- The statements of the reads: the last index of each range. -/
theorem witness_readIndex :
    (4 : Byte).toNat ≤ 4 ∧ (15 : Byte).toNat ≤ 15 ∧ (19 : Byte).toNat ≤ 19 := by decide

/-- A concrete state has the invariant when nothing is in flight. -/
theorem inv_doneAbc (w : CmdWord) : EngineInv (presenting w doneAbc) := by
  simp [EngineInv, InflightOk, idle, presenting, doneAbc, State.reset]

/-- DigestHeldWhileDone: a read and a faulting PUTB in DONE. -/
theorem witness_DigestHeldWhileDone :
    EngineInv (presenting 0x070000000000 doneAbc) ∧ (presenting 0x070000000000 doneAbc).PHASE = .done ∧
    seen (fun t => t.PHASE) (step (presenting 0x070000000000 doneAbc)) = some .done ∧
    seen (fun t => t.PHASE) (exec (.putb 1) doneAbc) = some .done :=
  ⟨inv_doneAbc _, rfl, by decide, by decide⟩

/-- ReadOutDeliversDigest, CommandCompletesInBoundedSteps. -/
theorem witness_ReadOutDeliversDigest :
    canAccept doneAbc = true ∧ doneAbc.host = [] ∧ doneAbc.rspReady = true := by decide

/-- FaultEffect: with and without a fault recorded. -/
theorem witness_FaultEffect :
    State.reset.ERR = false ∧ faulted.ERR = true ∧ ∃ t, exec .init faulted = .next t := ⟨rfl, rfl, _, rfl⟩

/-- DecodeAndFaultOrder: each clause, where they meet. -/
theorem witness_DecodeAndFaultOrder :
    (0x0C : Byte).toNat > 0x0B ∧
    ((0x0B : Byte).toNat ≤ 0x0B ∧ fieldBad 0x0B 0 1) ∧
    ((0x02 : Byte).toNat ≤ 0x0B ∧ ¬ fieldBad 0x02 0 0xFF ∧ phaseBad 0x02 .done) ∧
    ((0x05 : Byte).toNat ≤ 0x0B ∧ ¬ fieldBad 0x05 15 7 ∧ ¬ phaseBad 0x05 .raw) := by
  refine ⟨by decide, ⟨by decide, .inr (by decide)⟩, ⟨by decide, ?_, ?_⟩, ⟨by decide, ?_, ?_⟩⟩
  · simp [fieldBad]
  · simp [phaseBad]
  · simp [fieldBad]
  · simp [phaseBad]

/-- FirstFaultKept: a fault recorded; a first fault; no fault. -/
theorem witness_FirstFaultKept :
    (∀ rest, (presenting 0x0C0000000000 faulted).host ≠ .reset :: rest) ∧
    seen (fun t => t.ERR) (step (presenting 0x0C0000000000 faulted)) = some true ∧
    seen (fun t => t.ERR) (step (presenting 0x0C0000000000 State.reset)) = some true ∧
    seen (fun t => t.ERR) (step (presenting 0x000000000000 State.reset)) = some false := by
  refine ⟨fun rest h => ?_, by decide, by decide, by decide⟩
  simp [presenting] at h

/-- StepRunsDecodedCommand. -/
theorem witness_StepRunsDecodedCommand :
    decode 0x0B0000000000 = .ok .rdst ∧ decodeTableWord 48 0x0B0000000000 = some .rdst ∧
    canAccept State.reset = true ∧ State.reset.host = [] := by decide

/-- CommandHandshake: an edge that takes a word, one that cannot, one without a word. -/
theorem witness_CommandHandshake :
    (PinsIn.mk false true 0x060000000000 false).cmdValid = true ∧ cmdReady false State.reset = true ∧
    cmdReady false responding = false ∧ cmdReady false (atFold .comp false .raw 0) = false ∧
    cmdReady true State.reset = false ∧ (PinsIn.mk false false 0 false).cmdValid = false := by decide

/-- ResponseBlocksUntilTaken: two edges without `rsp_ready`, one with it. -/
theorem witness_ResponseBlocksUntilTaken :
    responding.INFLIGHT = .idle ∧ responding.RSPV = true ∧
    (∀ p ∈ [PinsIn.mk false true 0 false, PinsIn.mk false false 0 false],
      p.rst = false ∧ p.rspReady = false) ∧
    (PinsIn.mk false true 0 true).rst = false ∧ (PinsIn.mk false true 0 true).rspReady = true := by decide

/-- CommandCompletesInBoundedSteps: a command with one compression, on its last micro-step but one. -/
theorem witness_CommandCompletesInBoundedSteps :
    canAccept State.reset = true ∧ decode 0x060000000000 = .ok .comp ∧
    82 < 1 + 82 * compressions .comp State.reset ∧ decode 0x040500000000 = .error .illegalField ∧
    compressions .final (absorbing 56 56) = 2 := by decide

/-- PinsWhileBusy: the first FOLD of a two-block FINAL, and its last, at which `done_o` rises. -/
theorem witness_PinsWhileBusy :
    busyO (atFold .final true .absorb 56) = true ∧
    seen (fun t => (busyO t, t.H[0])) (microStep (atFold .final true .absorb 56))
      = some (true, 0x67452302) ∧
    doneO (atFold .final false .absorb 56) = false ∧
    seen doneO (microStep (atFold .final false .absorb 56)) = some true := by decide

/-- StepKeepsInvariant, ClockEdgeKeepsInvariant: a two-block FINAL in flight. -/
theorem witness_StepKeepsInvariant :
    EngineInv (atFold .final true .absorb 56) ∧
    (∃ t, clockEdge 1 (PinsIn.mk false false 0 true) (atFold .final true .absorb 56) = .next t) ∧
    EngineInv (presenting 0x060000000000 doneAbc) ∧
    ∃ t, step (presenting 0x060000000000 doneAbc) = .next t := by
  refine ⟨⟨by decide, by decide, by decide, by decide, rfl, fun _ => by decide⟩, ⟨_, rfl⟩,
    inv_doneAbc _, ⟨_, rfl⟩⟩

end Sys2Proof.Tests
end

section
/-! The word operators of rule R6 as arithmetic. -/

namespace Sys2Proof.Machine

/-- A left rotation puts the low `32 - n` bits above the high `n` bits (R6). -/
theorem rotl_eq_append (n : Nat) (hn : n < 32) (x : Word) :
    rotl n x = (x.extractLsb' 0 (32 - n) ++ x.extractLsb' (32 - n) n).setWidth 32 := by
  apply BitVec.eq_of_getLsbD_eq
  intro i hi
  rw [rotl, BitVec.getLsbD_rotateLeft, Nat.mod_eq_of_lt hn]
  by_cases hlow : i < n
  · simp [hi, hlow, BitVec.getLsbD_append]
  · have hrange : i - n < 32 - n := by omega
    simp [hi, hlow, hrange, BitVec.getLsbD_append]

/-- A left rotation as arithmetic: the high `n` bits come back at the bottom (R6). -/
theorem rotl_toNat (n : Nat) (hn : n < 32) (x : Word) :
    (rotl n x).toNat = (x.toNat * 2 ^ n) % 2 ^ 32 + x.toNat / 2 ^ (32 - n) := by
  have hpow : 2 ^ (32 - n) * 2 ^ n = 2 ^ 32 := by rw [← Nat.pow_add]; congr 1; omega
  have hhigh : x.toNat / 2 ^ (32 - n) < 2 ^ n :=
    Nat.div_lt_of_lt_mul (by rw [hpow]; exact x.isLt)
  have hlow : (x.toNat * 2 ^ n) % 2 ^ 32 = x.toNat % 2 ^ (32 - n) * 2 ^ n := by
    rw [← hpow, Nat.mul_mod_mul_right]
  rw [rotl, BitVec.toNat_rotateLeft, Nat.mod_eq_of_lt hn, Nat.shiftLeft_eq, Nat.shiftRight_eq_div_pow,
    hlow, ← Nat.shiftLeft_eq, Nat.shiftLeft_add_eq_or_of_lt hhigh]

/-- `add32` is addition modulo 2^32 (R6). -/
theorem add32_toNat (x y : Word) : (add32 x y).toNat = (x.toNat + y.toNat) % 2 ^ 32 :=
  BitVec.toNat_add x y

/-- A sum of three words is the sum of their numbers modulo 2^32 (R6). -/
theorem add32_add32_toNat (x y z : Word) :
    (add32 (add32 x y) z).toNat = (x.toNat + y.toNat + z.toNat) % 2 ^ 32 := by
  rw [add32_toNat, add32_toNat, Nat.mod_add_mod]

theorem add32_comm (x y : Word) : add32 x y = add32 y x := BitVec.add_comm x y

theorem add32_assoc (x y z : Word) : add32 (add32 x y) z = add32 x (add32 y z) :=
  BitVec.add_assoc x y z

/-- Settles O8, from the two readings of a rotation and the laws of `add32`. -/
theorem rotationAndAddition : Obligations.RotationAndAddition := by
  refine ⟨fun x y i => ?bitwise, fun n x hn => ?rotation, add32_toNat, fun x y z => ?sum⟩
  case bitwise => exact ⟨BitVec.getLsbD_and, BitVec.getLsbD_or, BitVec.getLsbD_xor⟩
  case rotation =>
    have hlt : n < 32 := by omega
    exact ⟨rotl_toNat n hlt x, rotl_eq_append n hlt x⟩
  case sum => exact ⟨add32_add32_toNat x y z, add32_comm x y, add32_assoc x y z⟩

end Sys2Proof.Machine
end

section
/-! The micro-sequence of a command comes to its atomic step (R10, R180): the sequencer state is nothing
to a command's effect, a compression in flight is `compress`, and so the micro-steps of a command with
one or two compressions end in the state that `exec` answers. -/

namespace Sys2Proof.Machine

/-! ### The sequencer under the operations of a command -/

@[simp] theorem withInflight_withInflight (x y : Inflight) (s : State) :
    withInflight x (withInflight y s) = withInflight x s := rfl

/-- Writing the value that INFLIGHT has changes nothing. -/
theorem withInflight_eq_self {x : Inflight} {s : State} (h : s.INFLIGHT = x) : withInflight x s = s := by
  subst h
  rfl

theorem startStep_withInflight (x : Inflight) (s : State) :
    startStep (withInflight x s) = withInflight x (startStep s) := (rfl)

theorem packInto_withInflight (x : Inflight) (M : Vector Byte 64) (s : State) :
    packInto M (withInflight x s) = withInflight x (packInto M s) := (rfl)

theorem storeByte_withInflight (x : Inflight) (b : Byte) (s : State) :
    storeByte b (withInflight x s) = withInflight x (storeByte b s) := (rfl)

/-- What a command writes at its last FOLD edge does not read the sequencer. -/
theorem finishCommand_withInflight (x : Inflight) (i : Instr) (s : State) :
    finishCommand i (withInflight x s) = withInflight x (finishCommand i s) := by
  cases i <;> exact (rfl)

/-- Nor does the block of a command's first compression. -/
theorem loadBlock_withInflight (x : Inflight) (i : Instr) (s : State) :
    loadBlock i (withInflight x s) = (loadBlock i s).map fun p => (withInflight x p.1, p.2) := by
  cases i with
  | putb b =>
    by_cases h : s.PHASE = .absorb ∧ s.N = 63 <;>
      simp [loadBlock, h, storeByte_withInflight, packInto_withInflight]
  | final =>
    by_cases hp : s.PHASE = .absorb <;> by_cases hn : oneFinalBlock s.N = true <;>
      simp [loadBlock, hp, hn, packInto_withInflight]
  | comp => by_cases h : s.PHASE = .absorb <;> simp [loadBlock, h]
  | _ => rfl

/-- A command leaves the sequencer as it is: only the micro-step view writes it (R29). -/
theorem exec_INFLIGHT {i : Instr} {s t : State} (h : exec i s = .next t) : t.INFLIGHT = s.INFLIGHT := by
  cases i with
  | nop => rw [execNop_cases h]
  | init => rw [execInit_cases h, startMessage_INFLIGHT]
  | putb b => obtain ⟨-, rfl⟩ | ⟨-, -, rfl⟩ | ⟨-, -, rfl⟩ := execPutb_cases h <;> simp
  | final => obtain ⟨-, rfl⟩ | ⟨-, rfl⟩ := execFinal_cases h <;> simp
  | ldh idx v => obtain ⟨-, rfl⟩ | ⟨-, -, rfl⟩ | ⟨-, -, -, rfl⟩ := execLdh_cases h <;> simp
  | ldw idx v => obtain ⟨-, rfl⟩ | ⟨-, -, rfl⟩ | ⟨-, -, -, rfl⟩ := execLdw_cases h <;> simp
  | comp => obtain ⟨-, rfl⟩ | ⟨-, rfl⟩ := execComp_cases h <;> simp
  | rdh idx => obtain ⟨-, rfl⟩ | ⟨-, -, rfl⟩ := execRdh_cases h <;> simp
  | rdw idx => obtain ⟨-, rfl⟩ | ⟨-, -, rfl⟩ := execRdw_cases h <;> simp
  | rdb idx => obtain ⟨-, rfl⟩ | ⟨-, -, rfl⟩ := execRdb_cases h <;> simp
  | rdl idx => obtain ⟨-, rfl⟩ | ⟨-, -, rfl⟩ := execRdl_cases h <;> simp
  | rdst => rw [execRdst_cases h, rspPush_INFLIGHT]

/-! ### A command with compressions as its parts -/

/-- A command with one compression: its block, `compress`, what it writes at the end. -/
theorem exec_of_one_block {i : Instr} {s s' : State} (h : loadBlock i s = some (s', false)) :
    exec i s = .next (finishCommand i (compress s')) := by
  obtain ⟨rfl, hp, rfl, -⟩ | ⟨b, rfl, hp, hn, rfl, -⟩ | ⟨rfl, hp, hn, rfl, -⟩ | ⟨-, -, -, -, hmore⟩ :=
    loadBlock_cases h
  · simp [exec, execComp, hp, finishCommand]
  · simp [exec, execPutb, hp, hn, finishCommand]
  · simp [exec, execFinal, hp, finalBlocks_one _ hn, finishCommand]
  · cases hmore

/-- A command with two compressions: FINAL with a long tail (R120). -/
theorem exec_of_two_blocks {i : Instr} {s s' : State} (h : loadBlock i s = some (s', true)) :
    exec i s = .next (finishCommand i
      (compress (packInto (padSecond (lenField s'.LEN)) (compress s')))) := by
  obtain ⟨-, -, -, hmore⟩ | ⟨-, -, -, -, -, hmore⟩ | ⟨-, -, -, -, hmore⟩ | ⟨rfl, hp, hn, rfl, -⟩ :=
    loadBlock_cases h
  · cases hmore
  · cases hmore
  · cases hmore
  · simp [exec, execFinal, hp, finalBlocks_two _ hn, finishCommand]

/-! ### Compressions in flight -/

/-- The FOLD of a compression in flight completes `compress`, the sequencer apart (R99). -/
theorem foldStep_roundsStep_withInflight (x : Inflight) (N : Nat) (hN : N = 80) (s : State) :
    foldStep (roundsStep N (withInflight x (startStep s))) = withInflight x (compress s) := by
  rw [← startStep_withInflight, ← compress_withInflight, compress, hN]

/-- The FOLD edge of the last compression, on a state whose FOLD gives `compress s`. -/
theorem foldEdge_last {x : Inflight} {i : Instr} {s u : State}
    (hfold : foldStep u = withInflight x (compress s)) :
    foldEdge i false u = withInflight .idle (finishCommand i (compress s)) := by
  rw [foldEdge, if_neg Bool.false_ne_true, hfold, finishCommand_withInflight,
    withInflight_withInflight]

/-- The FOLD edge of the first of two compressions: the second block goes into W (R120). -/
theorem foldEdge_first {x : Inflight} {i : Instr} {s u : State}
    (hfold : foldStep u = withInflight x (compress s)) (hlen : u.LEN = s.LEN) :
    foldEdge i true u = withInflight (.start i false)
      (packInto (padSecond (lenField s.LEN)) (compress s)) := by
  rw [foldEdge, if_pos rfl, hfold, hlen, packInto_withInflight, withInflight_withInflight]

/-- The last compression of a command in flight completes the command. -/
theorem microSteps_last_compression (N : Nat) (hN : N = 80) (i : Instr) (s : State)
    (hf : s.INFLIGHT = .start i false) :
    microSteps (1 + N + 1) s = .next (withInflight .idle (finishCommand i (compress s))) := by
  rw [microSteps_compression i false N hN s hf,
    foldEdge_last (foldStep_roundsStep_withInflight _ N hN s)]

/-- The first of two compressions ends with the second block in W (R120). -/
theorem microSteps_first_compression (N : Nat) (hN : N = 80) (i : Instr) (s : State)
    (hf : s.INFLIGHT = .start i true) :
    microSteps (1 + N + 1) s = .next (withInflight (.start i false)
      (packInto (padSecond (lenField s.LEN)) (compress s))) := by
  have hlen : (roundsStep N (withInflight (.rounds i true) (startStep s))).LEN = s.LEN := by
    rw [roundsStep_LEN, withInflight_LEN, startStep_LEN]
  rw [microSteps_compression i true N hN s hf,
    foldEdge_first (foldStep_roundsStep_withInflight _ N hN s) hlen]

/-- A command with one compression, from its block in W to its completion and idle after it. -/
theorem microSteps_one_block (i : Instr) (s : State) (hf : s.INFLIGHT = .start i false) :
    microSteps (82 + 82) s = .next (withInflight .idle (finishCommand i (compress s))) := by
  rw [microSteps_add 82 82 _ _ (microSteps_last_compression 80 rfl i s hf)]
  exact microSteps_idle 82 _ (withInflight_INFLIGHT _ _)

/-- A command with two compressions, from its first block in W to its completion. -/
theorem microSteps_two_blocks (i : Instr) (s : State) (hf : s.INFLIGHT = .start i true) :
    microSteps (82 + 82) s = .next (withInflight .idle (finishCommand i
      (compress (packInto (padSecond (lenField s.LEN)) (compress s))))) := by
  rw [microSteps_add 82 82 _ _ (microSteps_first_compression 80 rfl i s hf),
    microSteps_last_compression 80 rfl i _ (withInflight_INFLIGHT _ _), compress_withInflight,
    finishCommand_withInflight, withInflight_withInflight]

/-! ### From acceptance to completion -/

theorem microSteps_succ_next {n : Nat} {s t : State} (h : microStep s = .next t) :
    microSteps (n + 1) s = microSteps n t := by
  simp only [microSteps, h]

/-- A first micro-step that leaves the engine idle, or stops it, is all the command does. -/
theorem microSteps_succ_of_idle {n : Nat} {s : State} {o : Host.Outcome State Fault Refusal}
    (h : microStep s = o) (hidle : ∀ t, o = .next t → t.INFLIGHT = .idle) :
    microSteps (n + 1) s = o := by
  subst h
  cases hs : microStep s with
  | next t => rw [microSteps_succ_next hs, microSteps_idle n t (hidle t hs)]
  | fault r => simp only [microSteps, hs]
  | refused r => simp only [microSteps, hs]

section Accepted
variable {s : State} (w : CmdWord) (hidle : s.INFLIGHT = .idle)
include hidle

/-- The sequencer of an idle engine is idle again once the word accepted is taken off. -/
theorem idle_after_accepted : withInflight .idle (withInflight (.accepted w) s) = s := by
  rw [withInflight_withInflight, withInflight_eq_self hidle]

/-- A word that does not decode raises its fault at the first micro-step. -/
theorem microStep_accepted_error {code : FaultCode} (hd : decode w = .error code) :
    microStep (withInflight (.accepted w) s) = .next (raiseFault code s) := by
  simp only [microStep, withInflight_INFLIGHT, hd, idle_after_accepted w hidle]

/-- A command with no compression is performed at the first micro-step. -/
theorem microStep_accepted_none {i : Instr} (hd : decode w = .ok i) (hl : loadBlock i s = none) :
    microStep (withInflight (.accepted w) s) = exec i s := by
  simp only [microStep, withInflight_INFLIGHT, hd, loadBlock_withInflight, hl, Option.map_none,
    idle_after_accepted w hidle]

omit hidle in
/-- A command with a compression has its block in W after the first micro-step. -/
theorem microStep_accepted_some {i : Instr} {s' : State} {more : Bool} (hd : decode w = .ok i)
    (hl : loadBlock i s = some (s', more)) :
    microStep (withInflight (.accepted w) s) = .next (withInflight (.start i more) s') := by
  simp only [microStep, withInflight_INFLIGHT, hd, loadBlock_withInflight, hl, Option.map_some,
    withInflight_withInflight]

/-- A command with compressions run to its completion is the command performed at once. -/
theorem completeInflight_of_block {i : Instr} {s' : State} {more : Bool} (hd : decode w = .ok i)
    (hl : loadBlock i s = some (s', more)) :
    completeInflight (withInflight (.accepted w) s) = exec i s := by
  have hfirst : completeInflight (withInflight (.accepted w) s)
      = microSteps (82 + 82) (withInflight (.start i more) s') :=
    microSteps_succ_next (microStep_accepted_some w hd hl)
  rw [hfirst]
  cases more with
  | false =>
    have hexec := exec_of_one_block hl
    rw [microSteps_one_block i _ (withInflight_INFLIGHT _ _), compress_withInflight,
      finishCommand_withInflight, withInflight_withInflight,
      withInflight_eq_self ((exec_INFLIGHT hexec).trans hidle), hexec]
  | true =>
    have hexec := exec_of_two_blocks hl
    rw [microSteps_two_blocks i _ (withInflight_INFLIGHT _ _), compress_withInflight,
      packInto_withInflight, compress_withInflight, finishCommand_withInflight,
      withInflight_withInflight, withInflight_LEN,
      withInflight_eq_self ((exec_INFLIGHT hexec).trans hidle), hexec]

/-- An accepted word run to its completion is the word performed at once (R10). -/
theorem completeInflight_accepted : completeInflight (withInflight (.accepted w) s) = execWord w s := by
  rw [execWord]
  cases hd : decode w with
  | error code =>
    exact microSteps_succ_of_idle (microStep_accepted_error w hidle hd) fun t ht => by
      cases ht
      rw [raiseFault_INFLIGHT, hidle]
  | ok i =>
    cases hl : loadBlock i s with
    | none =>
      exact microSteps_succ_of_idle (microStep_accepted_none w hidle hd hl) fun t ht => by
        rw [exec_INFLIGHT ht, hidle]
    | some p => exact completeInflight_of_block w hidle hd hl

end Accepted

/-- Settles O54: a word that is presented is performed on the state it is taken off, and so is the word
accepted there and run to its completion. -/
theorem microStepsRefineCommand : Obligations.MicroStepsRefineCommand := by
  intro s w rest hpres
  have hidle : (takeOff rest s).INFLIGHT = .idle := ((canAccept_iff s).mp hpres.1).1
  rw [completeInflight_accepted w hidle, step_presents s w rest hpres]

end Sys2Proof.Machine
end

section
/-! The compression as a pure function (R92, R99): the recurrence of the reference is a schedule, the
ring holds the latest sixteen words of any schedule, the working variables follow the recurrence of R99,
and so `compress` leaves `compressFn` of the old H and W in H. -/

namespace Sys2Proof.Machine

/-! ### The schedule of a block -/

/-- The window shifted down by one is the next window's lower part. -/
theorem scheduleWindow_succ_getElem (block : Vector Word 16) (n i : Nat) (hi : i < 15) :
    (scheduleWindow block (n + 1))[i] = (scheduleWindow block n)[i + 1] := by
  simp [scheduleWindow, hi]

/-- The new last word of a window is the recurrence of R92. -/
theorem scheduleWindow_succ_last (block : Vector Word 16) (n : Nat) :
    (scheduleWindow block (n + 1))[15] = rotl 1 ((scheduleWindow block n)[13]
      ^^^ (scheduleWindow block n)[8] ^^^ (scheduleWindow block n)[2] ^^^ (scheduleWindow block n)[0]) := by
  simp [scheduleWindow]

/-- A window holds sixteen successive schedule words. -/
theorem scheduleWindow_getElem (block : Vector Word 16) (n i : Nat) (hi : i < 16) :
    (scheduleWindow block n)[i] = schedule block (n + i) := by
  induction i generalizing n with
  | zero => rfl
  | succ i ih =>
    rw [← scheduleWindow_succ_getElem block n i (by omega), ih (n + 1) (by omega)]
    congr 1
    omega

/-- The reference's schedule satisfies both equations of R92. -/
theorem isSchedule_schedule (block : Vector Word 16) : IsSchedule block (schedule block) := by
  constructor
  · intro t ht
    simpa [scheduleWindow] using (scheduleWindow_getElem block 0 t ht).symm
  · intro t hlow _
    obtain ⟨n, rfl⟩ : ∃ n, t = n + 16 := ⟨t - 16, by omega⟩
    have hlast : schedule block (n + 16) = (scheduleWindow block (n + 1))[15] := by
      rw [scheduleWindow_getElem, Nat.add_right_comm]
    have h3 : n + 16 - 3 = n + 13 := by omega
    have h8 : n + 16 - 8 = n + 8 := by omega
    have h14 : n + 16 - 14 = n + 2 := by omega
    rw [hlast, scheduleWindow_succ_last, h3, h8, h14, Nat.add_sub_cancel]
    simp only [scheduleWindow_getElem, Nat.add_zero]

/-! ### The ring before a round -/

/-- The ring before round `n`: every schedule word not older than sixteen, of the block's own words and
those computed so far, stands in its slot (R92). -/
def RingHolds (S : Nat → Word) (n : Nat) (W : Vector Word 16) : Prop :=
  ∀ t j (hj : j < 16), t % 16 = j → n ≤ t + 16 → (t < 16 ∨ t < n) → W[j] = S t

/-- Before the first round the ring is the block (R92). -/
theorem ringHolds_zero {W : Vector Word 16} {S : Nat → Word} (hS : IsSchedule W S) : RingHolds S 0 W := by
  intro t j hj htj _ hlow
  obtain rfl : t = j := by omega
  exact (hS.1 t hj).symm

section Ring
variable {block W : Vector Word 16} {S : Nat → Word} {n : Nat}

/-- The word that replaces a slot is the schedule's own (R90, R92). -/
theorem ringWord_eq_schedule (hS : IsSchedule block S) (hW : RingHolds S n W) (hlow : 16 ≤ n)
    (hn : n < 80) : ringWord W n = S n := by
  rw [hS.2 n hlow hn, ringWord, hW (n - 3) ((n + 13) % 16) _ (by omega) (by omega) (by omega),
    hW (n - 8) ((n + 8) % 16) _ (by omega) (by omega) (by omega),
    hW (n - 14) ((n + 2) % 16) _ (by omega) (by omega) (by omega),
    hW (n - 16) (n % 16) _ (by omega) (by omega) (by omega)]

/-- The round input word of round `n` is the schedule word (R91, R92). -/
theorem roundWord_eq_schedule (hS : IsSchedule block S) (hW : RingHolds S n W) (hn : n < 80) :
    roundWord W n = S n := by
  rw [roundWord, ringAt]
  split
  · rename_i hlow
    rw [Vector.getElem_set_self, ringWord_eq_schedule hS hW hlow hn]
  · exact hW n _ _ rfl (by omega) (by omega)

/-- A round keeps the ring in step with the schedule (R90, R92). -/
theorem ringHolds_succ (hS : IsSchedule block S) (hW : RingHolds S n W) (hn : n < 80) :
    RingHolds S (n + 1) (ringAt W n) := by
  intro t j hj htj hnew hold
  rw [ringAt]
  split
  · rename_i hlow
    rw [Vector.getElem_set]
    split
    · obtain rfl : t = n := by omega
      exact ringWord_eq_schedule hS hW hlow hn
    · exact hW t j hj htj (by omega) (by omega)
  · exact hW t j hj htj (by omega) (by omega)

end Ring

/-! ### The working variables after some rounds -/

/-- The five working variables in their order (R16). -/
def working (s : State) : Vector Word 5 := #v[s.A, s.B, s.C, s.D, s.E]

/-- START copies the chaining state (R93). -/
theorem working_startStep (s : State) : working (startStep s) = s.H := by
  ext i hi
  match i, hi with
  | 0, _ | 1, _ | 2, _ | 3, _ | 4, _ => rfl

/-- One round on the working variables is one step of the recurrence of R99. -/
theorem working_roundStep {s : State} {h : Vector Word 5} {S : Nat → Word} (hT : s.T.val < 80)
    (hword : roundWord s.W s.T.val = S s.T.val) (hwork : working s = workingAt h S s.T.val) :
    working (roundStep s) = workingAt h S (s.T.val + 1) := by
  simp only [workingAt, ← hwork]
  rw [roundStep_enabled s hT]
  simp [working, roundTemp, add32, hword]

/-- After `n` rounds the ring and the working variables are those of R92 and R99. -/
theorem rounds_follow_schedule (s : State) {S : Nat → Word} (hS : IsSchedule s.W S) (n : Nat)
    (hn : n ≤ 80) :
    RingHolds S n (roundsStep n (startStep s)).W ∧
    working (roundsStep n (startStep s)) = workingAt s.H S n := by
  induction n with
  | zero => exact ⟨by simpa [roundsStep_zero] using ringHolds_zero hS, working_startStep s⟩
  | succ n ih =>
    obtain ⟨hring, hwork⟩ := ih (by omega)
    have hT : (roundsStep n (startStep s)).T.val = n := by
      rw [roundsStep_T n _ (by simp; omega)]
      simp
    have hlt : (roundsStep n (startStep s)).T.val < 80 := by omega
    rw [roundsStep_succ_last]
    constructor
    · rw [roundStep_enabled _ hlt]
      simpa only [hT] using ringHolds_succ hS hring (by omega)
    · have := working_roundStep (h := s.H) (S := S) hlt
        (by rw [hT]; exact roundWord_eq_schedule hS hring (by omega)) (by rw [hT, hwork])
      rwa [hT] at this

/-- FOLD adds the working variables to the chaining state (R98). -/
theorem foldStep_H_getElem (s : State) (j : Nat) (hj : j < 5) :
    (foldStep s).H[j] = s.H[j] + (working s)[j] := by
  match j, hj with
  | 0, _ | 1, _ | 2, _ | 3, _ | 4, _ => rfl

/-- START, `N` rounds and FOLD on H, the number of rounds a variable. -/
theorem foldRounds_H (N : Nat) (hN : N = 80) (s : State) :
    (foldStep (roundsStep N (startStep s))).H = compressFn s.H s.W := by
  obtain ⟨-, hwork⟩ := rounds_follow_schedule s (isSchedule_schedule s.W) N (by omega)
  ext j hj
  rw [foldStep_H_getElem, hwork, roundsStep_H, startStep_H, compressFn, foldAt, Vector.getElem_ofFn, hN]
  rfl

/-- H after a compression is the pure function of H and W before it (R99). -/
theorem compress_H (s : State) : (compress s).H = compressFn s.H s.W := by
  rw [compress, foldRounds_H 80 rfl]

end Sys2Proof.Machine
end

section
/-! The bytes of the padded message, block by block (R119 to R122): the message's own full blocks, then
`padOne`, or `padFirst` and `padSecond`, of a buffer that holds the tail. -/

namespace Sys2Proof.Machine

/-! ### Blocks and the chaining value of the first bytes -/

@[simp] theorem blockOf_getElem (bytes : List Byte) (q j : Nat) (hj : j < 64) :
    (blockOf bytes q)[j] = bytes.getD (64 * q + j) 0 := by
  simp [blockOf]

/-- The blocks that lie in the first part are that part's own. -/
theorem blockOf_append (a b : List Byte) (q : Nat) (hq : 64 * (q + 1) ≤ a.length) :
    blockOf (a ++ b) q = blockOf a q := by
  ext1 j hj
  rw [blockOf_getElem, blockOf_getElem, List.getD_append a b 0 _ (by omega)]

/-- The chaining value after some blocks depends on those blocks alone. -/
theorem chain_congr (h : Vector Word 5) (a b : List Byte) (n : Nat)
    (hblocks : ∀ q < n, blockOf a q = blockOf b q) : chain h a n = chain h b n := by
  induction n with
  | zero => rfl
  | succ n ih =>
    rw [chain, chain, hblocks n (Nat.lt_succ_self n), ih fun q hq => hblocks q (by omega)]

/-- Bytes behind the full blocks do not change the chaining value after them. -/
theorem chain_append (h : Vector Word 5) (a b : List Byte) :
    chain h (a ++ b) (a.length / 64) = chain h a (a.length / 64) :=
  chain_congr h _ _ _ fun q hq => blockOf_append a b q (by omega)

/-! ### The padded message -/

/-- The number of zero bytes between the marker and the length field. -/
def zeroCount (m : List Byte) : Nat := (119 - m.length % 64) % 64

/-- The padded message is as long as its four parts. -/
theorem paddedMessage_length (m : List Byte) :
    (paddedMessage m).length = m.length + zeroCount m + 9 := by
  simp [paddedMessage, zeroCount]
  omega

/-- A tail of at most 55 bytes makes one final block (R121). -/
theorem paddedMessage_length_one (m : List Byte) (h : m.length % 64 ≤ 55) :
    (paddedMessage m).length = 64 * (m.length / 64 + 1) := by
  rw [paddedMessage_length, zeroCount]
  omega

/-- A longer tail makes two (R121). -/
theorem paddedMessage_length_two (m : List Byte) (h : 56 ≤ m.length % 64) :
    (paddedMessage m).length = 64 * (m.length / 64 + 2) := by
  rw [paddedMessage_length, zeroCount]
  omega

/-- The full blocks of the padded message are the message's own. -/
theorem blockOf_paddedMessage (m : List Byte) (q : Nat) (hq : q < m.length / 64) :
    blockOf (paddedMessage m) q = blockOf m q := by
  rw [paddedMessage, List.append_assoc]
  exact blockOf_append m _ q (by omega)

/-- The message's own bytes come first. -/
theorem paddedMessage_getD_message (m : List Byte) (k : Nat) (h : k < m.length) :
    (paddedMessage m).getD k 0 = m.getD k 0 := by
  rw [paddedMessage, List.append_assoc, List.getD_append _ _ _ _ h]

/-- What follows the message, from its first byte on. -/
theorem paddedMessage_getD_add (m : List Byte) (k : Nat) :
    (paddedMessage m).getD (m.length + k) 0 =
      (0x80 :: List.replicate (zeroCount m) 0 ++
        (lenField (BitVec.ofNat 64 m.length)).toList).getD k 0 := by
  rw [paddedMessage, List.append_assoc, List.getD_append_right _ _ _ _ (Nat.le_add_right _ _),
    Nat.add_sub_cancel_left, zeroCount]

/-- The marker (R117). -/
theorem paddedMessage_getD_marker (m : List Byte) : (paddedMessage m).getD m.length 0 = 0x80 := by
  simpa using paddedMessage_getD_add m 0

/-- The zeros (R117). -/
theorem paddedMessage_getD_zero (m : List Byte) (k : Nat) (hlow : m.length < k)
    (hhigh : k < m.length + zeroCount m + 1) : (paddedMessage m).getD k 0 = 0 := by
  obtain ⟨i, rfl⟩ : ∃ i, k = m.length + (i + 1) := ⟨k - m.length - 1, by omega⟩
  rw [paddedMessage_getD_add, List.cons_append, List.getD_cons_succ,
    List.getD_append _ _ _ _ (by simp; omega), List.getD_replicate]
  omega

/-- The length field (R117). -/
theorem paddedMessage_getD_lenField (m : List Byte) (i : Nat) (hi : i < 8) :
    (paddedMessage m).getD (m.length + zeroCount m + 1 + i) 0
      = (lenField (BitVec.ofNat 64 m.length))[i] := by
  have hk : m.length + zeroCount m + 1 + i = m.length + (zeroCount m + i + 1) := by omega
  rw [hk, paddedMessage_getD_add, List.cons_append, List.getD_cons_succ,
    List.getD_append_right _ _ _ _ (by simp), List.length_replicate, Nat.add_sub_cancel_left,
    List.getD_eq_getElem _ _ (by simpa using hi), Vector.getElem_toList]

/-! ### The final blocks -/

/-- `buf` holds the tail of the message in its first bytes (R115). -/
def HoldsTail (m : List Byte) (buf : Vector Byte 64) : Prop :=
  ∀ j (hj : j < 64), j < m.length % 64 → m[64 * (m.length / 64) + j]? = some buf[j]

section FinalBlocks
variable {m : List Byte} {buf : Vector Byte 64} (hbuf : HoldsTail m buf)
include hbuf

theorem HoldsTail.getD {j : Nat} (hj : j < 64) (h : j < m.length % 64) :
    m.getD (64 * (m.length / 64) + j) 0 = buf[j] := by
  rw [List.getD_eq_getElem?_getD, hbuf j hj h, Option.getD_some]

/-- The last block when the tail leaves room for marker and length field (R119). -/
theorem blockOf_paddedMessage_padOne (h : m.length % 64 ≤ 55) :
    blockOf (paddedMessage m) (m.length / 64)
      = padOne buf (m.length % 64) (lenField (BitVec.ofNat 64 m.length)) := by
  have hz : zeroCount m = 55 - m.length % 64 := by rw [zeroCount]; omega
  ext1 j hj
  simp only [blockOf_getElem, padOne, Vector.getElem_ofFn]
  split_ifs with htail hmark hlen
  · rw [paddedMessage_getD_message _ _ (by omega)]
    exact hbuf.getD hj htail
  · have hk : 64 * (m.length / 64) + j = m.length := by omega
    rw [hk, paddedMessage_getD_marker]
  · have hk : 64 * (m.length / 64) + j = m.length + zeroCount m + 1 + (j - 56) := by omega
    rw [hk, paddedMessage_getD_lenField _ _ (by omega)]
  · exact paddedMessage_getD_zero _ _ (by omega) (by omega)

/-- The first of two final blocks: tail, marker and zeros (R120). -/
theorem blockOf_paddedMessage_padFirst (h : 56 ≤ m.length % 64) :
    blockOf (paddedMessage m) (m.length / 64) = padFirst buf (m.length % 64) := by
  have hz : zeroCount m = 119 - m.length % 64 := by rw [zeroCount]; omega
  ext1 j hj
  simp only [blockOf_getElem, padFirst, Vector.getElem_ofFn]
  split_ifs with htail hmark
  · rw [paddedMessage_getD_message _ _ (by omega)]
    exact hbuf.getD hj htail
  · have hk : 64 * (m.length / 64) + j = m.length := by omega
    rw [hk, paddedMessage_getD_marker]
  · exact paddedMessage_getD_zero _ _ (by omega) (by omega)

end FinalBlocks

/-- The second of two final blocks: zeros and the length field (R120). -/
theorem blockOf_paddedMessage_padSecond {m : List Byte} (h : 56 ≤ m.length % 64) :
    blockOf (paddedMessage m) (m.length / 64 + 1)
      = padSecond (lenField (BitVec.ofNat 64 m.length)) := by
  have hz : zeroCount m = 119 - m.length % 64 := by rw [zeroCount]; omega
  ext1 j hj
  simp only [blockOf_getElem, padSecond, Vector.getElem_ofFn]
  split_ifs with hlen
  · have hk : 64 * (m.length / 64 + 1) + j = m.length + zeroCount m + 1 + (j - 56) := by omega
    rw [hk, paddedMessage_getD_lenField _ _ (by omega)]
  · exact paddedMessage_getD_zero _ _ (by omega) (by omega)

/-! ### The digest by its final blocks -/

/-- The chaining value after the full blocks of the padded message is the message's own. -/
theorem chain_paddedMessage (h : Vector Word 5) (m : List Byte) :
    chain h (paddedMessage m) (m.length / 64) = chain h m (m.length / 64) :=
  chain_congr h _ _ _ (blockOf_paddedMessage m)

/-- The digest of a message with a tail of at most 55 bytes. -/
theorem digest_one_block {m : List Byte} {buf : Vector Byte 64} (hbuf : HoldsTail m buf)
    (h : m.length % 64 ≤ 55) :
    digest m = compressFn (chain iv m (m.length / 64))
      (packWords (padOne buf (m.length % 64) (lenField (BitVec.ofNat 64 m.length)))) := by
  rw [digest, paddedMessage_length_one m h, Nat.mul_div_cancel_left _ (by decide), chain,
    chain_paddedMessage, blockOf_paddedMessage_padOne hbuf h]

/-- The digest of a message with a longer tail. -/
theorem digest_two_blocks {m : List Byte} {buf : Vector Byte 64} (hbuf : HoldsTail m buf)
    (h : 56 ≤ m.length % 64) :
    digest m = compressFn
      (compressFn (chain iv m (m.length / 64)) (packWords (padFirst buf (m.length % 64))))
      (packWords (padSecond (lenField (BitVec.ofNat 64 m.length)))) := by
  rw [digest, paddedMessage_length_two m h, Nat.mul_div_cancel_left _ (by decide), chain, chain,
    chain_paddedMessage, blockOf_paddedMessage_padFirst hbuf h, blockOf_paddedMessage_padSecond h]

end Sys2Proof.Machine
end

section
/-! The functional contract (R12): INIT, a PUTB per byte and FINAL, first as commands on a state that
holds the message in progress (R115), then as a run of the host's words. -/

namespace Sys2Proof.Machine

/-! ### INIT, PUTB and FINAL on the message in progress -/

/-- What a command leaves alone that neither faults nor responds: the fault record, the response
register's full bit, the sequencer and the host's list. -/
structure KeepsPort (s t : State) : Prop where
  ERR : t.ERR = s.ERR
  ECODE : t.ECODE = s.ECODE
  RSPV : t.RSPV = s.RSPV
  INFLIGHT : t.INFLIGHT = s.INFLIGHT
  host : t.host = s.host

/-- The engine can take a further word after such a command. -/
theorem KeepsPort.canAccept {s t : State} (h : KeepsPort s t) : canAccept t = canAccept s := by
  simp only [Machine.canAccept, idle, h.RSPV, h.INFLIGHT]

/-- Two such commands one after the other, each on the list that the word is taken off. -/
theorem KeepsPort.trans_takeOff {s t u : State} {r rest : List HostAct} (h : KeepsPort (takeOff r s) t)
    (h' : KeepsPort (takeOff rest t) u) : KeepsPort (takeOff rest s) u :=
  ⟨h'.ERR.trans h.ERR, h'.ECODE.trans h.ECODE, h'.RSPV.trans h.RSPV, h'.INFLIGHT.trans h.INFLIGHT,
    h'.host⟩

/-- INIT starts the empty message (R112, R115). -/
theorem exec_init_absorbing (s : State) :
    ∃ t, exec .init s = .next t ∧ Absorbing [] t ∧ KeepsPort s t :=
  ⟨startMessage s, rfl, by simp [Absorbing, chain], by constructor <;> simp⟩

section MessageInProgress
variable {m : List Byte} {s : State} (hm : Absorbing m s)
include hm

theorem Absorbing.LEN_eq : s.LEN = BitVec.ofNat 64 m.length := by
  obtain ⟨-, hlen, -⟩ := hm
  exact BitVec.eq_of_toNat_eq (by rw [hlen, BitVec.toNat_ofNat])

theorem Absorbing.holdsTail : HoldsTail m s.BUF := by
  obtain ⟨-, -, hn, htail, -⟩ := hm
  intro j hj hlt
  exact htail j (by omega)

/-- With the next byte stored the buffer holds a tail one byte longer. -/
theorem Absorbing.storeByte_tail (b : Byte) {j : Nat} (hj : j < 64) (hle : j ≤ m.length % 64) :
    (m ++ [b])[64 * (m.length / 64) + j]? = some (storeByte b s).BUF[j] := by
  obtain ⟨-, -, hn, htail, -⟩ := hm
  simp only [storeByte_BUF, Vector.getElem_set]
  rcases Nat.lt_or_eq_of_le hle with hlt | heq
  · rw [List.getElem?_append_left (by omega), if_neg (by omega)]
    exact htail j (by omega)
  · have hk : 64 * (m.length / 64) + j = m.length := by omega
    rw [hk, if_pos (by omega), List.getElem?_concat_length]

/-- The stored byte completes the block of the longer message. -/
theorem Absorbing.blockOf_storeByte (b : Byte) (hfull : m.length % 64 = 63) :
    blockOf (m ++ [b]) (m.length / 64) = (storeByte b s).BUF := by
  ext1 j hj
  rw [blockOf_getElem, List.getD_eq_getElem?_getD, hm.storeByte_tail b hj (by omega), Option.getD_some]

/-- PUTB appends its byte where it completes no block (R114, R115). -/
theorem Absorbing.putb_short (b : Byte) (hshort : m.length % 64 ≠ 63) :
    Absorbing (m ++ [b]) (setTail (s.N + 1) (countByte (storeByte b s))) := by
  have hdiv : (m ++ [b]).length / 64 = m.length / 64 := by simp; omega
  have hstored := fun j => hm.storeByte_tail b (j := j)
  obtain ⟨hp, hlen, hn, -, hH⟩ := hm
  have hN : (s.N + 1).val = m.length % 64 + 1 := by
    rw [Fin.val_add, hn]
    exact Nat.mod_eq_of_lt (by simp; omega)
  refine ⟨by simpa using hp, ?length, ?count, fun j hj => ?tail, ?chaining⟩
  case length => simp [BitVec.toNat_add, hlen]
  case count => simp [hN]; omega
  case tail =>
    have hj' : j < (s.N + 1).val := hj
    rw [hdiv]
    exact hstored j (by omega) (by omega)
  case chaining => rw [hdiv, chain_append, ← hH]; simp

/-- PUTB compresses the block that its byte completes (R114, R115). -/
theorem Absorbing.putb_full (b : Byte) (hfull : m.length % 64 = 63) :
    Absorbing (m ++ [b])
      (setTail 0 (countByte (compress (packInto (storeByte b s).BUF (storeByte b s))))) := by
  have hdiv : (m ++ [b]).length / 64 = m.length / 64 + 1 := by simp; omega
  have hblock := hm.blockOf_storeByte b hfull
  obtain ⟨hp, hlen, hn, -, hH⟩ := hm
  refine ⟨by simpa using hp, ?length, ?count, fun j hj => ?tail, ?chaining⟩
  case length => simp [BitVec.toNat_add, hlen]
  case count => simp; omega
  case tail => simp at hj
  case chaining =>
    rw [hdiv, chain, chain_append, hblock, ← hH, setTail_H, countByte_H, compress_H, packInto_H,
      packInto_W, storeByte_H]

/-- PUTB on the message in progress. -/
theorem Absorbing.exec_putb (b : Byte) :
    ∃ t, exec (.putb b) s = .next t ∧ Absorbing (m ++ [b]) t ∧ KeepsPort s t := by
  have ⟨hp, _, hn, _, _⟩ := hm
  by_cases hfull : m.length % 64 = 63
  · have hN : s.N = 63 := Fin.ext (hn.trans hfull)
    exact ⟨_, by simp only [exec, execPutb, hp, hN, if_true], hm.putb_full b hfull,
      by constructor <;> simp⟩
  · have hN : s.N ≠ 63 := fun h => hfull (by rw [← hn, h]; rfl)
    exact ⟨_, by simp only [exec, execPutb, hp, hN, if_true, if_false], hm.putb_short b hfull,
      by constructor <;> simp⟩

/-- The final blocks of FINAL leave the digest in H (R116, R119, R120). -/
theorem Absorbing.finalBlocks_H : (finalBlocks s).H = digest m := by
  have hbuf := hm.holdsTail
  have hL := hm.LEN_eq
  obtain ⟨-, -, hn, -, hH⟩ := hm
  by_cases hshort : s.N.val ≤ 55
  · rw [finalBlocks_one s hshort, digest_one_block hbuf (by omega), compress_H, packInto_H, packInto_W,
      hH, hL, hn]
  · rw [finalBlocks_two s hshort, digest_two_blocks hbuf (by omega), compress_H, packInto_H, packInto_W,
      compress_H, packInto_H, packInto_W, hH, hL, hn]

/-- FINAL on the message in progress. -/
theorem Absorbing.exec_final :
    ∃ t, exec .final s = .next t ∧ t.PHASE = .done ∧ t.H = digest m ∧ t.LEN = s.LEN ∧ KeepsPort s t :=
  ⟨enterPhase .done (setTail 0 (finalBlocks s)), by simp [exec, execFinal, hm.1], by simp,
    by simp [hm.finalBlocks_H], by simp, by constructor <;> simp⟩

end MessageInProgress

/-! ### The run of the host's words -/

theorem decode_encode_init : decode (encode .init) = .ok .init := by decide

theorem decode_encode_final : decode (encode .final) = .ok .final := by decide

/-- A byte in the data field is a legal immediate, and the one that is read back (R64, R69). -/
theorem decode_encode_putb (b : Byte) : decode (encode (.putb b)) = .ok (.putb b) := by
  have hhigh : (dataOfByte b).extractLsb' 8 24 = 0 := BitVec.extractLsb'_append_eq_left
  have hlow : imm8Of (dataOfByte b) = b := BitVec.extractLsb'_append_eq_right
  rw [encode, decode_cmdWord]
  simp [decodeFields, decodeB, hhigh, hlow]

/-- A command that is presented is performed in one step. -/
theorem run_succ_command {i : Instr} {s t : State} {rest : List HostAct} (n : Nat)
    (hacc : canAccept s = true) (hhost : s.host = .command (encode i) :: rest)
    (hdec : decode (encode i) = .ok i) (hexec : exec i (takeOff rest s) = .next t) :
    run (n + 1) s = run n t := by
  have hstep : step s = .next t := by
    rw [step_presents s (encode i) rest ⟨hacc, hhost⟩, execWord, hdec]
    exact hexec
  simp only [run, hstep]

/-- A response that waits at the start is taken; the engine can then accept a word (R177). -/
theorem run_waitingSteps {s : State} {w : CmdWord} {rest : List HostAct}
    (hhost : s.host = .command w :: rest) (hidle : idle s = true) (htaken : responsesTaken s = true) :
    ∃ u, run (waitingSteps s) s = .next u ∧ canAccept u = true ∧ u.host = s.host ∧
      u.ERR = s.ERR ∧ u.ECODE = s.ECODE := by
  cases hv : s.RSPV with
  | false => exact ⟨s, by simp [waitingSteps, hv, run], by simp [canAccept, hidle, hv], rfl, rfl, rfl⟩
  | true =>
    have hready : s.rspReady = true := by simpa [responsesTaken, hv] using htaken
    have hinflight : s.INFLIGHT = .idle := by simpa [idle] using hidle
    refine ⟨handOver s, ?_, ?_, by simp, by simp, by simp⟩
    · simp only [waitingSteps, hv, if_true, run_one, step_handOver s w rest hhost hinflight hv hready]
    · simp [canAccept_iff, hinflight]

/-- One PUTB per byte appends the bytes to the message in progress (R114). -/
theorem run_puts (bytes : List Byte) {m : List Byte} {s : State} {rest : List HostAct}
    (hm : Absorbing m s) (hacc : canAccept s = true) (hhost : s.host = asHost (puts bytes) ++ rest) :
    ∃ t, run bytes.length s = .next t ∧ Absorbing (m ++ bytes) t ∧ KeepsPort (takeOff rest s) t := by
  induction bytes generalizing m s with
  | nil =>
    have hrest : s.host = rest := hhost
    exact ⟨s, rfl, by simpa using hm, by constructor <;> simp [hrest]⟩
  | cons b bytes ih =>
    have hm' : Absorbing m (takeOff (asHost (puts bytes) ++ rest) s) := hm
    obtain ⟨u, hexec, hu, hkeep⟩ := hm'.exec_putb b
    obtain ⟨t, hrun, ht, hkeep'⟩ := ih hu (hkeep.canAccept.trans hacc) hkeep.host
    refine ⟨t, ?run, by simpa using ht, ?keeps⟩
    case run =>
      rw [← hrun]
      exact run_succ_command bytes.length hacc hhost (decode_encode_putb b) hexec
    case keeps => exact hkeep.trans_takeOff hkeep'

/-- The words of a digest: INIT, then the PUTBs, then FINAL (R79). -/
theorem asHost_digestCommands (m : List Byte) (rest : List HostAct) :
    asHost (digestCommands m) ++ rest =
      .command (encode .init) :: (asHost (puts m) ++ .command (encode .final) :: rest) := by
  simp [digestCommands, asHost]

/-- INIT, the PUTBs and FINAL, presented to an engine that can accept a word. -/
theorem run_digestCommands (m : List Byte) {s : State} {rest : List HostAct} (hacc : canAccept s = true)
    (hhost : s.host = asHost (digestCommands m) ++ rest) :
    ∃ t, run (m.length + 2) s = .next t ∧ t.PHASE = .done ∧ t.H = digest m ∧
      t.LEN = BitVec.ofNat 64 m.length ∧ KeepsPort (takeOff rest s) t := by
  rw [asHost_digestCommands] at hhost
  obtain ⟨u, hinit, hu, hku⟩ :=
    exec_init_absorbing (takeOff (asHost (puts m) ++ .command (encode .final) :: rest) s)
  obtain ⟨v, hputs, hv, hkv⟩ := run_puts m hu (hku.canAccept.trans hacc) hku.host
  have hv' : Absorbing m (takeOff rest v) := hv
  obtain ⟨t, hfinal, hphase, hH, hlen, hkt⟩ := hv'.exec_final
  refine ⟨t, ?run, hphase, hH, hlen.trans hv'.LEN_eq, ?keeps⟩
  case run =>
    have haccv : canAccept v = true := hkv.canAccept.trans (hku.canAccept.trans hacc)
    calc run (m.length + 1 + 1) s
        = run (m.length + 1) u := run_succ_command _ hacc hhost decode_encode_init hinit
      _ = run 1 v := run_add m.length 1 u v hputs
      _ = .next t := 
          run_succ_command 0 haccv hkv.host decode_encode_final hfinal
  case keeps => exact (hku.trans_takeOff hkv).trans_takeOff hkt

/-- Settles O33: a waiting response is taken, then the commands run on R115's invariant, which FINAL turns
into the digest. -/
theorem digestContract : Obligations.DigestContract := by
  intro m s hm hidle htaken
  obtain ⟨u, hwait, hacc, hhost, herr, hecode⟩ := run_waitingSteps
    (s := withCommands (digestCommands m) s) (asHost_digestCommands m s.host) hidle htaken
  obtain ⟨t, hrun, hphase, hH, hlen, hkeep⟩ := run_digestCommands m hacc hhost
  refine ⟨t, (run_add _ _ _ u hwait).trans hrun, hphase, hH, ?length, hkeep.ERR.trans herr,
    hkeep.ECODE.trans hecode, hkeep.host⟩
  case length =>
    rw [hlen, BitVec.toNat_ofNat]
    omega

end Sys2Proof.Machine
end

section
/-! What a command can answer, said once for all twelve: each answer is one of the cases of `Answers`, and
each case is an answer. The frame, the phases and the fault record are read off these cases. -/

namespace Sys2Proof.Machine

open Sys2Proof.Laws

/-! ### The cases -/

/-- The word that a read pushes (R132 to R137); `none` for an index out of range and for every other
command. -/
def responseOf (i : Instr) (s : State) : Option Word :=
  match i with
  | .rdh idx => (element 5 idx).map (readH s)
  | .rdw idx => (element 16 idx).map (readW s)
  | .rdb idx => (element 20 idx).map fun j => (digestByte s j).setWidth 32
  | .rdl idx => (element 2 idx).map (readLenHalf s)
  | .rdst => some (status s)
  | .nop | .init | .putb _ | .final | .ldh _ _ | .ldw _ _ | .comp => none

/-- `Answers i s t`: command `i` gives the next state `t` in state `s`. One constructor per way it can:
the two faults of a command (R150, R151), the eight commands that do not read, and the reads. -/
inductive Answers : Instr → State → State → Prop
  | badField {i : Instr} {s : State} (hwf : ¬ WellFormed i) : Answers i s (raiseFault .illegalField s)
  | barred {i : Instr} {s : State} (hwf : WellFormed i)
      (hp : phaseBad (EncodedFields.opcode i) s.PHASE) : Answers i s (raiseFault .sequence s)
  | nop {s : State} : Answers .nop s s
  | init {s : State} : Answers .init s (startMessage s)
  | putbFull {b : Byte} {s : State} (hp : s.PHASE = .absorb) (hN : s.N = 63) :
      Answers (.putb b) s
        (setTail 0 (countByte (compress (packInto (storeByte b s).BUF (storeByte b s)))))
  | putbShort {b : Byte} {s : State} (hp : s.PHASE = .absorb) (hN : s.N ≠ 63) :
      Answers (.putb b) s (setTail (s.N + 1) (countByte (storeByte b s)))
  | final {s : State} (hp : s.PHASE = .absorb) :
      Answers .final s (enterPhase .done (setTail 0 (finalBlocks s)))
  | ldh {idx : Byte} {v : Word} {s : State} (j : Fin 5) (hj : j.val = idx.toNat)
      (hp : s.PHASE ≠ .absorb) : Answers (.ldh idx v) s (enterPhase .raw (writeH j v s))
  | ldw {idx : Byte} {v : Word} {s : State} (j : Fin 16) (hj : j.val = idx.toNat)
      (hp : s.PHASE ≠ .absorb) : Answers (.ldw idx v) s (enterPhase .raw (writeW j v s))
  | comp {s : State} (hp : s.PHASE ≠ .absorb) : Answers .comp s (enterPhase .raw (compress s))
  | read {i : Instr} {s : State} {v : Word} (hv : responseOf i s = some v) :
      Answers i s (rspPush v s)

theorem element_of_val {size : Nat} {idx : Byte} {j : Fin size} (h : j.val = idx.toNat) :
    element size idx = some j := by
  rw [element_some size idx (h ▸ j.isLt)]
  exact congrArg some (Fin.ext h.symm)

/-- Everything a command answers is one of the cases. -/
theorem exec_answers {i : Instr} {s t : State} (h : exec i s = .next t) : Answers i s t := by
  cases i with
  | nop => obtain rfl := execNop_cases h; exact .nop
  | init => obtain rfl := execInit_cases h; exact .init
  | putb b =>
    obtain ⟨hp, rfl⟩ | ⟨hp, hN, rfl⟩ | ⟨hp, hN, rfl⟩ := execPutb_cases h
    · exact .barred rfl hp
    · exact .putbFull hp hN
    · exact .putbShort hp hN
  | final =>
    obtain ⟨hp, rfl⟩ | ⟨hp, rfl⟩ := execFinal_cases h
    · exact .barred rfl hp
    · exact .final hp
  | ldh idx v =>
    obtain ⟨hi, rfl⟩ | ⟨hi, hp, rfl⟩ | ⟨j, hj, hp, rfl⟩ := execLdh_cases h
    · exact .badField (by simp [Instr.wellFormed, hi])
    · exact .barred (by simp [WellFormed, Instr.wellFormed, hi]) hp
    · exact .ldh j hj hp
  | ldw idx v =>
    obtain ⟨hi, rfl⟩ | ⟨hi, hp, rfl⟩ | ⟨j, hj, hp, rfl⟩ := execLdw_cases h
    · exact .badField (by simp [Instr.wellFormed, hi])
    · exact .barred (by simp [WellFormed, Instr.wellFormed, hi]) hp
    · exact .ldw j hj hp
  | comp =>
    obtain ⟨hp, rfl⟩ | ⟨hp, rfl⟩ := execComp_cases h
    · exact .barred rfl hp
    · exact .comp hp
  | rdh idx =>
    obtain ⟨hi, rfl⟩ | ⟨j, hj, rfl⟩ := execRdh_cases h
    · exact .badField (by simp [Instr.wellFormed, hi])
    · exact .read (by simp [responseOf, element_of_val hj])
  | rdw idx =>
    obtain ⟨hi, rfl⟩ | ⟨j, hj, rfl⟩ := execRdw_cases h
    · exact .badField (by simp [Instr.wellFormed, hi])
    · exact .read (by simp [responseOf, element_of_val hj])
  | rdb idx =>
    obtain ⟨hi, rfl⟩ | ⟨j, hj, rfl⟩ := execRdb_cases h
    · exact .badField (by simp [Instr.wellFormed, hi])
    · exact .read (by simp [responseOf, element_of_val hj])
  | rdl idx =>
    obtain ⟨hi, rfl⟩ | ⟨j, hj, rfl⟩ := execRdl_cases h
    · exact .badField (by simp [Instr.wellFormed, hi])
    · exact .read (by simp [responseOf, element_of_val hj])
  | rdst => obtain rfl := execRdst_cases h; exact .read rfl

/-- A command never stops the engine (R154). -/
theorem exec_total (i : Instr) (s : State) : ∃ t, exec i s = .next t := by
  cases i with
  | nop | init | rdst => exact ⟨_, rfl⟩
  | putb b => simp only [exec, execPutb]; split <;> [split <;> exact ⟨_, rfl⟩; exact ⟨_, rfl⟩]
  | final => simp only [exec, execFinal]; split <;> exact ⟨_, rfl⟩
  | ldh idx v => simp only [exec, execLdh]; split <;> [exact ⟨_, rfl⟩; split <;> exact ⟨_, rfl⟩]
  | ldw idx v => simp only [exec, execLdw]; split <;> [exact ⟨_, rfl⟩; split <;> exact ⟨_, rfl⟩]
  | comp => simp only [exec, execComp]; split <;> exact ⟨_, rfl⟩
  | rdh idx => simp only [exec, execRdh]; split <;> exact ⟨_, rfl⟩
  | rdw idx => simp only [exec, execRdw]; split <;> exact ⟨_, rfl⟩
  | rdb idx => simp only [exec, execRdb]; split <;> exact ⟨_, rfl⟩
  | rdl idx => simp only [exec, execRdl]; split <;> exact ⟨_, rfl⟩

/-- An idx field out of range selects nothing, in each of the six commands that have one (R70, R150). -/
theorem exec_badField {i : Instr} (s : State) (hwf : ¬ WellFormed i) :
    exec i s = .next (raiseFault .illegalField s) := by
  cases i with
  | nop | init | putb _ | final | comp | rdst => exact absurd rfl hwf
  | ldh idx v =>
    rw [exec, execLdh, element_none 5 idx fun h => hwf (decide_eq_true (Nat.le_of_lt_succ h))]
  | ldw idx v =>
    rw [exec, execLdw, element_none 16 idx fun h => hwf (decide_eq_true (Nat.le_of_lt_succ h))]
  | rdh idx =>
    rw [exec, execRdh, element_none 5 idx fun h => hwf (decide_eq_true (Nat.le_of_lt_succ h))]
  | rdw idx =>
    rw [exec, execRdw, element_none 16 idx fun h => hwf (decide_eq_true (Nat.le_of_lt_succ h))]
  | rdb idx =>
    rw [exec, execRdb, element_none 20 idx fun h => hwf (decide_eq_true (Nat.le_of_lt_succ h))]
  | rdl idx =>
    rw [exec, execRdl, element_none 2 idx fun h => hwf (decide_eq_true (Nat.le_of_lt_succ h))]

/-- A well-formed command in a phase that bars it raises SEQUENCE (R151). -/
theorem exec_barred {i : Instr} {s : State} (hwf : WellFormed i)
    (hp : phaseBad (EncodedFields.opcode i) s.PHASE) :
    exec i s = .next (raiseFault .sequence s) := by
  cases i with
  | nop | init | rdh _ | rdw _ | rdb _ | rdl _ | rdst => exact hp.elim
  | putb b => exact if_neg hp
  | final => exact if_neg hp
  | comp => exact if_pos hp
  | ldh idx v =>
    have hidx : idx.toNat < 5 := Nat.lt_succ_of_le (of_decide_eq_true hwf)
    rw [exec, execLdh, element_some 5 idx hidx]
    exact if_pos hp
  | ldw idx v =>
    have hidx : idx.toNat < 16 := Nat.lt_succ_of_le (of_decide_eq_true hwf)
    rw [exec, execLdw, element_some 16 idx hidx]
    exact if_pos hp

/-- A read pushes its word (R132 to R137). -/
theorem exec_read {i : Instr} {s : State} {v : Word} (hv : responseOf i s = some v) :
    exec i s = .next (rspPush v s) := by
  cases i with
  | nop | init | putb _ | final | ldh _ _ | ldw _ _ | comp => cases hv
  | rdh idx =>
    obtain ⟨j, hj, rfl⟩ := Option.map_eq_some_iff.mp hv
    rw [exec, execRdh, hj]
  | rdw idx =>
    obtain ⟨j, hj, rfl⟩ := Option.map_eq_some_iff.mp hv
    rw [exec, execRdw, hj]
  | rdb idx =>
    obtain ⟨j, hj, rfl⟩ := Option.map_eq_some_iff.mp hv
    rw [exec, execRdb, hj]
  | rdl idx =>
    obtain ⟨j, hj, rfl⟩ := Option.map_eq_some_iff.mp hv
    rw [exec, execRdl, hj]
  | rdst => cases hv; rfl

/-- Each case is what the command answers. -/
theorem exec_of_answers {i : Instr} {s t : State} (h : Answers i s t) : exec i s = .next t := by
  cases h with
  | badField hwf => exact exec_badField s hwf
  | barred hwf hp => exact exec_barred hwf hp
  | nop | init => rfl
  | putbFull hp hN => simp only [exec, execPutb, hp, hN, if_true]
  | putbShort hp hN => simp only [exec, execPutb, hp, hN, if_true, if_false]
  | final hp => simp only [exec, execFinal, hp, if_true]
  | ldh j hj hp => simp only [exec, execLdh, element_of_val hj, hp, if_false]
  | ldw j hj hp => simp only [exec, execLdw, element_of_val hj, hp, if_false]
  | comp hp => simp only [exec, execComp, hp, if_false]
  | read hv => exact exec_read hv

theorem exec_eq_next_iff {i : Instr} {s t : State} : exec i s = .next t ↔ Answers i s t :=
  ⟨exec_answers, exec_of_answers⟩

/-- A word raises its decoding fault or is performed (R68). -/
theorem execWord_cases {w : CmdWord} {s t : State} (h : execWord w s = .next t) :
    (∃ code, decode w = .error code ∧ t = raiseFault code s) ∨
    ∃ i, decode w = .ok i ∧ exec i s = .next t := by
  unfold execWord at h
  split at h
  next code hdec => cases h; exact .inl ⟨code, hdec, rfl⟩
  next i hdec => exact .inr ⟨i, hdec, h⟩

end Sys2Proof.Machine
end

section
/-! Moves of the engine, said once: what a micro-step, a step and a clock edge can do. A property that
all of these moves keep is then kept by every step and every clock edge, whatever is in flight. -/

namespace Sys2Proof.Machine

theorem idle_iff (s : State) : idle s = true ↔ s.INFLIGHT = .idle := by
  simp [idle]

/-! ### Micro-steps -/

/-- `MicroMove s t`: a micro-step leads from `s` to `t`. The first micro-step of an accepted word raises
its fault, performs it, or loads the block of its first compression; then come START, ROUND and the two
kinds of FOLD edge. -/
inductive MicroMove : State → State → Prop
  | idle {s : State} (hI : s.INFLIGHT = .idle) : MicroMove s s
  | fault {w : CmdWord} {s : State} (hI : s.INFLIGHT = .accepted w) (code : FaultCode) :
      MicroMove s (raiseFault code (withInflight .idle s))
  | perform {w : CmdWord} {i : Instr} {s t : State} (hI : s.INFLIGHT = .accepted w)
      (hexec : exec i (withInflight .idle s) = .next t) : MicroMove s t
  | load {w : CmdWord} {i : Instr} {s s' : State} {more : Bool} (hI : s.INFLIGHT = .accepted w)
      (hload : loadBlock i s = some (s', more)) : MicroMove s (withInflight (.start i more) s')
  | start {i : Instr} {more : Bool} {s : State} (hI : s.INFLIGHT = .start i more) :
      MicroMove s (withInflight (.rounds i more) (startStep s))
  | round {i : Instr} {more : Bool} {s : State} (hI : s.INFLIGHT = .rounds i more) :
      MicroMove s (roundStep s)
  | nextBlock {i : Instr} {s : State} (hI : s.INFLIGHT = .rounds i true) :
      MicroMove s (withInflight (.start i false) (packInto (padSecond (lenField s.LEN)) (foldStep s)))
  | finish {i : Instr} {s : State} (hI : s.INFLIGHT = .rounds i false) :
      MicroMove s (withInflight .idle (finishCommand i (foldStep s)))

theorem microStep_moves {s t : State} (h : microStep s = .next t) : MicroMove s t := by
  unfold microStep at h
  split at h
  next hI => cases h; exact .idle hI
  next w hI =>
    split at h
    next code _ => cases h; exact .fault hI code
    next i _ =>
      split at h
      next => exact .perform hI h
      next s' more hload => cases h; exact .load hI hload
  next i more hI => cases h; exact .start hI
  next i more hI =>
    split at h
    next => cases h; exact .round hI
    next =>
      cases more with
      | true => cases h; exact .nextBlock hI
      | false => cases h; exact .finish hI

/-- What every micro-step keeps, any number of micro-steps keeps. -/
theorem microSteps_keep {P : State → Prop} (hP : ∀ s t, P s → MicroMove s t → P t) (n : Nat)
    {s t : State} (hs : P s) (h : microSteps n s = .next t) : P t := by
  induction n generalizing s with
  | zero => cases h; exact hs
  | succ n ih =>
    cases hm : microStep s with
    | next u =>
      rw [microSteps_succ_next hm] at h
      exact ih (hP s u hs (microStep_moves hm)) h
    | fault r => simp [microSteps, hm] at h
    | refused r => simp [microSteps, hm] at h

/-! ### Steps and clock edges -/

/-- `Move s t`: what a step or a clock edge that is no reset can do: the host changes `rsp_ready`, the
engine waits, a response is handed over, a presented word is performed at once (the step) or accepted
(the edge), or the command in flight makes micro-steps. -/
inductive Move : State → State → Prop
  | ready {s : State} (b : Bool) (rest : List HostAct) : Move s { takeOff rest s with rspReady := b }
  | wait {s : State} : Move s s
  | handOver {s : State} (hI : s.INFLIGHT = .idle) : Move s (handOver s)
  | perform {w : CmdWord} {rest : List HostAct} {s t : State} (hpres : Presents s w rest)
      (hexec : execWord w (takeOff rest s) = .next t) : Move s t
  | accept {s : State} (w : CmdWord) (hacc : canAccept s = true) : Move s (withInflight (.accepted w) s)
  | inflight {s t : State} (n : Nat) (hmicro : microSteps n s = .next t) : Move s t

/-- Everything one step can do (R58, R176, R177). -/
theorem step_moves {s t : State} (h : step s = .next t) :
    (∃ rest, s.host = .reset :: rest ∧ t = resetEngine (takeOff rest s)) ∨ Move s t := by
  unfold step at h
  split at h
  next rest hhost => cases h; exact .inl ⟨rest, hhost, rfl⟩
  next b rest _ => cases h; exact .inr (.ready b rest)
  next =>
    split at h
    next hidle =>
      split at h
      next => cases h; exact .inr (.handOver ((idle_iff s).mp hidle))
      next => cases h; exact .inr .wait
    next => exact .inr (.inflight longestCommand h)
  next w rest hhost =>
    split at h
    next hidle =>
      split at h
      next =>
        split at h
        next => cases h; exact .inr (.handOver ((idle_iff s).mp hidle))
        next => cases h; exact .inr .wait
      next hrsp => exact .inr (.perform ⟨by simp [canAccept, hidle, hrsp], hhost⟩ h)
    next => exact .inr (.inflight longestCommand h)

/-- Everything one clock edge can do (R171, R176, R177). -/
theorem clockEdge_moves {k : Nat} {p : PinsIn} {s t : State} (h : clockEdge k p s = .next t) :
    (p.rst = true ∧ t = resetEngine s) ∨ Move s t := by
  unfold clockEdge at h
  split at h
  next hrst => cases h; exact .inl ⟨hrst, rfl⟩
  split at h
  next hidle =>
    split at h
    next =>
      split at h
      next => cases h; exact .inr (.handOver ((idle_iff s).mp hidle))
      next => cases h; exact .inr .wait
    next hrsp =>
      split at h
      next => cases h; exact .inr (.accept p.cmdWord (by simp [canAccept, hidle, hrsp]))
      next => cases h; exact .inr .wait
  next => exact .inr (.inflight k h)

end Sys2Proof.Machine
end

section
/-! The invariant of rule R30: it holds after reset, and every step and every clock edge keeps it. What
the registers hold (`RegistersInv`) is separate from the sequencer, so that a command is looked at once,
performed at a step or in flight. -/

namespace Sys2Proof.Machine

/-! ### The registers' part of the invariant -/

/-- The part of `EngineInv` about registers alone: the fault record, and N in each phase (R30). -/
structure RegistersInv (s : State) : Prop where
  record : s.ECODE = none ↔ s.ERR = false
  done : s.PHASE = .done → s.N = 0
  absorb : s.PHASE = .absorb → s.N.val = s.LEN.toNat % 64

theorem engineInv_iff {s : State} :
    EngineInv s ↔ RegistersInv s ∧ (s.RSPV = true → s.INFLIGHT = .idle) ∧ InflightOk s := by
  rw [← idle_iff]
  exact ⟨fun ⟨hrecord, hdone, habsorb, hrsp, hok⟩ => ⟨⟨hrecord, hdone, habsorb⟩, hrsp, hok⟩,
    fun ⟨⟨hrecord, hdone, habsorb⟩, hrsp, hok⟩ => ⟨hrecord, hdone, habsorb, hrsp, hok⟩⟩

/-- With nothing in flight the registers' part is all of it. -/
theorem engineInv_of_idle {s : State} (hI : s.INFLIGHT = .idle) (h : RegistersInv s) : EngineInv s :=
  engineInv_iff.mpr ⟨h, fun _ => hI, by simp [InflightOk, hI]⟩

/-- With a command in flight no response waits. -/
theorem engineInv_of_busy {s : State} (hV : s.RSPV = false) (h : RegistersInv s) (hok : InflightOk s) :
    EngineInv s :=
  engineInv_iff.mpr ⟨h, by simp [hV], hok⟩

namespace RegistersInv

/-- It speaks of the fault record, PHASE, N and LEN alone. -/
theorem of_same {s t : State} (h : RegistersInv s) (hERR : t.ERR = s.ERR := by simp)
    (hECODE : t.ECODE = s.ECODE := by simp) (hPHASE : t.PHASE = s.PHASE := by simp)
    (hN : t.N = s.N := by simp) (hLEN : t.LEN = s.LEN := by simp) : RegistersInv t where
  record := by rw [hERR, hECODE]; exact h.record
  done := by rw [hPHASE, hN]; exact h.done
  absorb := by rw [hPHASE, hN, hLEN]; exact h.absorb

theorem raiseFault {s : State} (h : RegistersInv s) (code : FaultCode) :
    RegistersInv (raiseFault code s) where
  record := by cases hE : s.ERR <;> simp [hE, h.record]
  done := h.done
  absorb := h.absorb

/-- PHASE RAW asks nothing of N (R30). -/
theorem enterRaw {s : State} (h : RegistersInv s) : RegistersInv (enterPhase .raw s) where
  record := h.record
  done := by simp
  absorb := by simp

theorem enterDone {s : State} (h : RegistersInv s) : RegistersInv (enterPhase .done (setTail 0 s)) where
  record := h.record
  done := by simp
  absorb := by simp

theorem startMessage {s : State} (h : RegistersInv s) : RegistersInv (startMessage s) where
  record := h.record
  done := by simp
  absorb := by simp

/-- A byte counted in LEN and in N (R114); the tail wraps with a completed block. -/
theorem countByte {s : State} {n : Fin 64} (h : RegistersInv s) (hp : s.PHASE = .absorb)
    (hn : n.val = (s.N.val + 1) % 64) : RegistersInv (setTail n (countByte s)) where
  record := h.record
  done := by simp [hp]
  absorb := by
    have hlen := h.absorb hp
    simp [BitVec.toNat_add]
    omega

end RegistersInv

/-- Every command keeps the registers' part. -/
theorem exec_registersInv {i : Instr} {s t : State} (h : RegistersInv s) (hexec : exec i s = .next t) :
    RegistersInv t := by
  cases exec_answers hexec with
  | badField => exact h.raiseFault _
  | barred => exact h.raiseFault _
  | nop => exact h
  | init => exact h.startMessage
  | putbFull hp hN => exact .countByte h.of_same (by simp [hp]) (by simp [hN])
  | putbShort hp => exact .countByte h.of_same (by simp [hp]) (by simp [Fin.val_add])
  | final => exact .enterDone h.of_same
  | ldh => exact .enterRaw h.of_same
  | ldw => exact .enterRaw h.of_same
  | comp => exact .enterRaw h.of_same
  | read => exact h.of_same

/-- So does every word, decoded or not. -/
theorem execWord_registersInv {w : CmdWord} {s t : State} (h : RegistersInv s)
    (hexec : execWord w s = .next t) : RegistersInv t := by
  obtain ⟨code, -, rfl⟩ | ⟨i, -, hexec⟩ := execWord_cases hexec
  · exact h.raiseFault code
  · exact exec_registersInv h hexec

/-- A word leaves the sequencer as it is, as a command does. -/
theorem execWord_INFLIGHT {w : CmdWord} {s t : State} (hexec : execWord w s = .next t) :
    t.INFLIGHT = s.INFLIGHT := by
  obtain ⟨code, -, rfl⟩ | ⟨i, -, hexec⟩ := execWord_cases hexec
  · exact raiseFault_INFLIGHT code s
  · exact exec_INFLIGHT hexec

/-! ### The command in flight -/

/-- A block loaded for a command fits the phase and the tail count (R105, R114, R116). -/
theorem loadBlock_inflightOk {i : Instr} {s s' : State} {more : Bool}
    (h : loadBlock i s = some (s', more)) : InflightOk (withInflight (.start i more) s') := by
  obtain ⟨rfl, hp, rfl, rfl⟩ | ⟨b, rfl, hp, hN, rfl, rfl⟩ | ⟨rfl, hp, -, rfl, rfl⟩ |
    ⟨rfl, hp, hN, rfl, rfl⟩ := loadBlock_cases h
  · simp [InflightOk, hp]
  · simp [InflightOk, hp, hN]
  · simp [InflightOk, hp]
  · simp [InflightOk, hp]; omega

/-- Loading a block writes BUF and W alone (assumption 10). -/
theorem loadBlock_frame {i : Instr} {s s' : State} {more : Bool} (h : loadBlock i s = some (s', more)) :
    s' = { s with BUF := s'.BUF, W := s'.W } := by
  obtain ⟨-, -, rfl, -⟩ | ⟨b, -, -, -, rfl, -⟩ | ⟨-, -, -, rfl, -⟩ | ⟨-, -, -, rfl, -⟩ :=
    loadBlock_cases h <;> rfl

/-- The writes at a command's last FOLD edge keep the registers' part, in the phase and with the tail
count of the command in flight. -/
theorem finishCommand_registersInv {i : Instr} {s : State} (hI : s.INFLIGHT = .rounds i false)
    (h : RegistersInv s) (hok : InflightOk s) : RegistersInv (finishCommand i s) := by
  rw [InflightOk, hI] at hok
  cases i with
  | comp => exact h.enterRaw
  | putb b =>
    obtain ⟨hp, hN, -⟩ := hok
    exact h.countByte hp (by simp [hN])
  | final => exact h.enterDone
  | _ => exact hok.elim

/-- A second block follows only in FINAL, and its phase is FINAL's (R116, R120). -/
theorem InflightOk.nextBlock {i : Instr} {s t : State} (hok : InflightOk s)
    (hI : s.INFLIGHT = .rounds i true) (hp : t.PHASE = s.PHASE) :
    InflightOk (withInflight (.start i false) t) := by
  rw [InflightOk, hI] at hok
  cases i with
  | final => exact ⟨hp.trans hok.1, nofun⟩
  | comp => exact absurd hok.2 nofun
  | putb b => exact absurd hok.2.2 nofun
  | _ => exact hok.elim

/-- Every micro-step keeps the invariant. -/
theorem microMove_engineInv (s t : State) (h : EngineInv s) (hmove : MicroMove s t) : EngineInv t := by
  obtain ⟨hreg, hrsp, hok⟩ := engineInv_iff.mp h
  have hbusy : s.INFLIGHT ≠ .idle → s.RSPV = false := by simpa using mt hrsp
  cases hmove with
  | idle => exact h
  | fault hI code => exact engineInv_of_idle (by simp) (.raiseFault hreg.of_same code)
  | perform hI hexec =>
    exact engineInv_of_idle (exec_INFLIGHT hexec) (exec_registersInv hreg.of_same hexec)
  | load hI hload =>
    have hok' := loadBlock_inflightOk hload
    rw [loadBlock_frame hload] at hok' ⊢
    exact engineInv_of_busy (hbusy (by simp [hI])) hreg.of_same hok'
  | start hI =>
    exact engineInv_of_busy (hbusy (by simp [hI])) hreg.of_same (by simpa [InflightOk, hI] using hok)
  | round hI =>
    exact engineInv_of_busy (by simp [hbusy, hI]) hreg.of_same (by simpa [InflightOk, hI] using hok)
  | nextBlock hI =>
    exact engineInv_of_busy (hbusy (by simp [hI])) hreg.of_same (hok.nextBlock hI (by simp))
  | finish hI =>
    have hfold : RegistersInv (finishCommand _ (foldStep s)) :=
      finishCommand_registersInv hI hreg.of_same hok
    exact engineInv_of_idle (by simp) hfold.of_same

/-! ### Steps and clock edges -/

theorem engineInv_reset : EngineInv State.reset :=
  engineInv_of_idle rfl
    { record := by simp [State.reset]
      done := fun _ => rfl
      absorb := fun _ => rfl }

/-- The host's side, which a reset edge keeps, is no part of the invariant. -/
theorem engineInv_resetEngine (s : State) : EngineInv (resetEngine s) := engineInv_reset

theorem move_engineInv {s t : State} (h : EngineInv s) (hmove : Move s t) : EngineInv t := by
  obtain ⟨hreg, -, -⟩ := engineInv_iff.mp h
  cases hmove with
  | ready b rest => exact h
  | wait => exact h
  | handOver hI => exact engineInv_of_idle (by simp [hI]) hreg.of_same
  | perform hpres hexec =>
    have hidle := ((canAccept_iff s).mp hpres.1).1
    exact engineInv_of_idle ((execWord_INFLIGHT hexec).trans hidle)
      (execWord_registersInv hreg.of_same hexec)
  | accept w hacc =>
    exact engineInv_of_busy ((canAccept_iff s).mp hacc).2 hreg.of_same trivial
  | inflight n hmicro => exact microSteps_keep microMove_engineInv n h hmicro

/-- Settles O58: after reset nothing is in flight, and the registers' part holds. -/
theorem invariantAfterReset : Obligations.InvariantAfterReset := engineInv_reset

/-- Settles O59: a reset restores the invariant, every other move of a step keeps it. -/
theorem stepKeepsInvariant : Obligations.StepKeepsInvariant := by
  intro s t hs hstep
  obtain ⟨rest, -, rfl⟩ | hmove := step_moves hstep
  · exact engineInv_resetEngine _
  · exact move_engineInv hs hmove

/-- Settles O60: likewise for the moves of a clock edge. -/
theorem clockEdgeKeepsInvariant : Obligations.ClockEdgeKeepsInvariant := by
  intro k p s t hs hedge
  obtain ⟨-, rfl⟩ | hmove := clockEdge_moves hedge
  · exact engineInv_resetEngine _
  · exact move_engineInv hs hmove

end Sys2Proof.Machine
end

section
/-! The fault record ERR and ECODE (R23, R24): a command keeps it or raises a fault, so across every move
that is no reset the first fault's record is kept; and no command but RDST reads it. -/

namespace Sys2Proof.Machine

/-! ### The first fault is kept -/

/-- A command that changes the fault record does nothing else than raise a fault (R148). -/
theorem exec_sameRecord_or_fault {i : Instr} {s t : State} (hexec : exec i s = .next t) :
    (t.ERR = s.ERR ∧ t.ECODE = s.ECODE) ∨ ∃ code, t = raiseFault code s := by
  cases exec_answers hexec with
  | badField => exact .inr ⟨_, rfl⟩
  | barred => exact .inr ⟨_, rfl⟩
  | _ => exact .inl ⟨by simp, by simp⟩

/-- What a command writes at its last FOLD edge raises no fault. -/
@[simp] theorem finishCommand_ERR (i : Instr) (s : State) : (finishCommand i s).ERR = s.ERR := by
  cases i <;> rfl

@[simp] theorem finishCommand_ECODE (i : Instr) (s : State) :
    (finishCommand i s).ECODE = s.ECODE := by
  cases i <;> rfl

/-- From `s` to `t` the fault record is kept, or, with none in `s`, a fault is recorded (R24). -/
def RecordFollows (s t : State) : Prop :=
  (t.ERR = s.ERR ∧ t.ECODE = s.ECODE) ∨
  (s.ERR = false ∧ t.ERR = true ∧ ∃ code, t.ECODE = some code)

namespace RecordFollows

theorem of_same {s t : State} (hERR : t.ERR = s.ERR := by simp)
    (hECODE : t.ECODE = s.ECODE := by simp) : RecordFollows s t :=
  .inl ⟨hERR, hECODE⟩

theorem trans {s t u : State} (h : RecordFollows s t) (h' : RecordFollows t u) :
    RecordFollows s u := by
  obtain ⟨hERR, hECODE⟩ | ⟨hnone, hset, hcode⟩ := h
  · simpa only [RecordFollows, hERR, hECODE] using h'
  · obtain ⟨hERR, hECODE⟩ | ⟨hnone', -⟩ := h'
    · exact .inr ⟨hnone, hERR.trans hset, by rwa [hECODE]⟩
    · simp [hset] at hnone'

theorem of_raiseFault (code : FaultCode) (s : State) : RecordFollows s (raiseFault code s) := by
  cases hE : s.ERR with
  | true => exact of_same (by simp [hE]) (by simp [hE])
  | false => exact .inr ⟨hE, by simp, code, by simp [hE]⟩

theorem of_exec {i : Instr} {s t : State} (hexec : exec i s = .next t) : RecordFollows s t := by
  obtain hsame | ⟨code, rfl⟩ := exec_sameRecord_or_fault hexec
  · exact .inl hsame
  · exact of_raiseFault code s

theorem of_execWord {w : CmdWord} {s t : State} (hexec : execWord w s = .next t) :
    RecordFollows s t := by
  obtain ⟨code, -, rfl⟩ | ⟨i, -, hexec⟩ := execWord_cases hexec
  · exact of_raiseFault code s
  · exact of_exec hexec

theorem of_microMove {s t : State} (hmove : MicroMove s t) : RecordFollows s t := by
  cases hmove with
  | idle => exact of_same
  | fault _ code => exact of_raiseFault code (withInflight .idle s)
  | perform _ hexec => exact of_exec (s := withInflight .idle s) hexec
  | load _ hload => rw [loadBlock_frame hload]; exact of_same
  | start => exact of_same
  | round => exact of_same
  | nextBlock => exact of_same
  | finish => exact of_same

/-- Every move that is no reset. -/
theorem of_move {s t : State} (hmove : Move s t) : RecordFollows s t := by
  cases hmove with
  | ready => exact of_same rfl rfl
  | wait => exact of_same
  | handOver => exact of_same
  | perform _ hexec => exact (of_execWord hexec : RecordFollows (takeOff _ s) t)
  | accept => exact of_same
  | inflight n hmicro =>
    exact microSteps_keep (fun _ _ h hmove => h.trans (of_microMove hmove)) n of_same hmicro

end RecordFollows

/-- Settles O49: a step that is no reset is a move, and across every move the record follows. -/
theorem firstFaultKept : Obligations.FirstFaultKept := by
  intro s t hreset hstep
  obtain ⟨rest, hhost, -⟩ | hmove := step_moves hstep
  · exact absurd hhost (hreset rest)
  obtain ⟨hERR, hECODE⟩ | ⟨hnone, hset, hcode⟩ := RecordFollows.of_move hmove
  · exact ⟨fun h => ⟨hERR.trans h, hECODE⟩, fun h h' => by simp [hERR, h] at h', fun _ _ => hECODE⟩
  · exact ⟨fun h => by simp [hnone] at h, fun _ _ => hcode, fun _ h => by simp [hset] at h⟩

/-! ### No command but RDST reads the record -/

/-- The fault record overwritten. -/
def withRecord (err : Bool) (ecode : Option FaultCode) (s : State) : State :=
  { s with ERR := err, ECODE := ecode }

section
variable (err : Bool) (ecode : Option FaultCode) (s : State)

@[simp] theorem withRecord_BUF : (withRecord err ecode s).BUF = s.BUF := (rfl)
@[simp] theorem withRecord_N : (withRecord err ecode s).N = s.N := (rfl)
@[simp] theorem withRecord_LEN : (withRecord err ecode s).LEN = s.LEN := (rfl)
@[simp] theorem setTail_withRecord (n : Fin 64) :
    setTail n (withRecord err ecode s) = withRecord err ecode (setTail n s) := (rfl)
@[simp] theorem countByte_withRecord :
    countByte (withRecord err ecode s) = withRecord err ecode (countByte s) := (rfl)
@[simp] theorem enterPhase_withRecord (p : Phase) :
    enterPhase p (withRecord err ecode s) = withRecord err ecode (enterPhase p s) := (rfl)
@[simp] theorem packInto_withRecord (M : Vector Byte 64) :
    packInto M (withRecord err ecode s) = withRecord err ecode (packInto M s) := (rfl)
@[simp] theorem storeByte_withRecord (b : Byte) :
    storeByte b (withRecord err ecode s) = withRecord err ecode (storeByte b s) := (rfl)

@[simp] theorem compress_withRecord :
    compress (withRecord err ecode s) = withRecord err ecode (compress s) := by
  rw [compress_eq_of_same s (withRecord err ecode s) rfl rfl]
  ext1 <;> simp [withRecord]

@[simp] theorem finalBlocks_withRecord :
    finalBlocks (withRecord err ecode s) = withRecord err ecode (finalBlocks s) := by
  by_cases hN : s.N.val ≤ 55
  · simp [finalBlocks_one _ hN, finalBlocks_one (withRecord err ecode s) hN]
  · simp [finalBlocks_two _ hN, finalBlocks_two (withRecord err ecode s) hN]

theorem responseOf_withRecord {i : Instr} (hi : i ≠ .rdst) :
    responseOf i (withRecord err ecode s) = responseOf i s := by
  cases i with
  | rdst => exact absurd rfl hi
  | _ => rfl

end

/-- A command answers the same with another fault record, that record apart (R23). -/
theorem answers_withRecord {i : Instr} {s t : State} (h : Answers i s t) (hi : i ≠ .rdst) (err : Bool)
    (ecode : Option FaultCode) :
    ∃ err' ecode', Answers i (withRecord err ecode s) (withRecord err' ecode' t) := by
  cases h with
  | badField hwf => exact ⟨_, _, .badField hwf⟩
  | barred hwf hp => exact ⟨_, _, .barred hwf hp⟩
  | nop => exact ⟨_, _, .nop⟩
  | init => exact ⟨_, _, .init⟩
  | @putbFull b _ hp hN =>
    have hfull : Answers (.putb b) (withRecord err ecode s) _ := .putbFull hp hN
    exact ⟨err, ecode, by simpa using hfull⟩
  | putbShort hp hN => exact ⟨_, _, .putbShort hp hN⟩
  | final hp =>
    have hfinal : Answers .final (withRecord err ecode s) _ := .final hp
    exact ⟨err, ecode, by simpa using hfinal⟩
  | ldh j hj hp => exact ⟨_, _, .ldh j hj hp⟩
  | ldw j hj hp => exact ⟨_, _, .ldw j hj hp⟩
  | comp hp =>
    have hcomp : Answers .comp (withRecord err ecode s) _ := .comp hp
    exact ⟨err, ecode, by simpa using hcomp⟩
  | read hv => exact ⟨_, _, .read ((responseOf_withRecord err ecode s hi).trans hv)⟩

/-- Settles O7: the case that a command answers by does not turn on the record. -/
theorem faultRecordDoesNotInfluence : Obligations.FaultRecordDoesNotInfluence := by
  intro i s err ecode hi
  obtain ⟨t, hexec⟩ := exec_total i s
  obtain ⟨err', ecode', hanswers⟩ := answers_withRecord (exec_answers hexec) hi err ecode
  exact ⟨t, withRecord err' ecode' t, hexec, exec_of_answers hanswers, rfl⟩

end Sys2Proof.Machine
end

section
/-! What a command changes: STATUS and its fields (R25), the table of PHASE (R22), and the elements that
each command writes (R31). -/

namespace Sys2Proof.Machine

open Sys2Proof.Laws

/-! ### STATUS -/

/-- A concatenation as a number: the upper field above the lower one (R6). -/
theorem toNat_append_eq_add {m n : Nat} (x : BitVec m) (y : BitVec n) :
    (x ++ y).toNat = x.toNat * 2 ^ n + y.toNat := by
  rw [BitVec.toNat_append, ← Nat.shiftLeft_add_eq_or_of_lt y.isLt, Nat.shiftLeft_eq]

theorem phaseBits_le (p : Phase) : (phaseBits p).toNat ≤ 2 := by
  cases p <;> decide

theorem ecodeBits_le (c : Option FaultCode) : (ecodeBits c).toNat ≤ 3 := by
  cases c with
  | none => decide
  | some c => cases c <;> decide

/-- STATUS as a number (R25). -/
theorem status_toNat (s : State) :
    (status s).toNat = (phaseBits s.PHASE).toNat + 8 * (if s.ERR then 1 else 0)
      + 16 * (ecodeBits s.ECODE).toNat + 256 * s.N.val := by
  have hN : s.N.val % 64 = s.N.val := Nat.mod_eq_of_lt s.N.isLt
  have hERR : (BitVec.ofBool s.ERR).toNat = if s.ERR then 1 else 0 := by cases s.ERR <;> rfl
  simp only [status, toNat_append_eq_add, BitVec.ofNat_eq_ofNat,
    BitVec.toNat_ofNat, hERR]
  omega

/-- A field of a word as a number. -/
theorem extractLsb'_toNat_eq_div {n : Nat} (start len : Nat) (x : BitVec n) :
    (x.extractLsb' start len).toNat = x.toNat / 2 ^ start % 2 ^ len := by
  rw [BitVec.extractLsb'_toNat, Nat.shiftRight_eq_div_pow]

/-- The fields of STATUS, each read off the number (R25). -/
theorem status_fields (s : State) :
    (status s).extractLsb' 0 2 = phaseBits s.PHASE ∧
    (status s).getLsbD 2 = false ∧
    (status s).getLsbD 3 = s.ERR ∧
    (status s).extractLsb' 4 4 = ecodeBits s.ECODE ∧
    ((status s).extractLsb' 8 6).toNat = s.N.val ∧
    (status s).extractLsb' 14 18 = 0 := by
  have hnum := status_toNat s
  have hphase := phaseBits_le s.PHASE
  have hecode := ecodeBits_le s.ECODE
  have hN := s.N.isLt
  have hERR : (if s.ERR then 1 else 0) ≤ 1 := by split <;> omega
  refine ⟨?phase, ?zero, ?err, ?ecode, ?tail, ?reserved⟩
  case phase =>
    apply BitVec.eq_of_toNat_eq
    rw [extractLsb'_toNat_eq_div]
    omega
  case zero =>
    rw [← BitVec.testBit_toNat, Nat.testBit_eq_decide_div_mod_eq, decide_eq_false_iff_not]
    omega
  case err =>
    rw [← BitVec.testBit_toNat, Nat.testBit_eq_decide_div_mod_eq]
    cases hE : s.ERR with
    | true => simp only [hE, if_true] at hnum; rw [decide_eq_true_iff]; omega
    | false => simp only [hE, Bool.false_eq_true, if_false] at hnum; rw [decide_eq_false_iff_not]; omega
  case ecode =>
    apply BitVec.eq_of_toNat_eq
    rw [extractLsb'_toNat_eq_div]
    omega
  case tail =>
    rw [extractLsb'_toNat_eq_div]
    omega
  case reserved =>
    apply BitVec.eq_of_toNat_eq
    rw [extractLsb'_toNat_eq_div]
    simp only [BitVec.ofNat_eq_ofNat, BitVec.toNat_ofNat]
    omega

/-- Settles O4: the number of STATUS, the fields read off it, and the bounds of PHASE and ECODE. -/
theorem statusFields : Obligations.StatusFields := by
  refine ⟨fun s => ?_, by decide⟩
  obtain ⟨hphase, hzero, hERR, hECODE, hN, hreserved⟩ := status_fields s
  exact ⟨status_toNat s, hphase, hzero, hERR, hECODE, hN, hreserved, phaseBits_le s.PHASE,
    ecodeBits_le s.ECODE, rfl⟩

/-! ### PHASE -/

theorem decodeZ_ok {idx : Byte} {data : Word} {i j : Instr} (h : decodeZ idx data i = .ok j) :
    j = i := by
  unfold decodeZ at h
  split at h
  · cases h; rfl
  · cases h

theorem decodeB_ok {idx : Byte} {data : Word} {i : Byte → Instr} {j : Instr}
    (h : decodeB idx data i = .ok j) : j = i (imm8Of data) := by
  unfold decodeB at h
  split at h
  · cases h; rfl
  · cases h

theorem decodeXW_ok {last : Nat} {idx : Byte} {data : Word} {i : Byte → Word → Instr} {j : Instr}
    (h : decodeXW last idx data i = .ok j) : idx.toNat ≤ last ∧ j = i idx data := by
  unfold decodeXW at h
  split at h
  next hle => cases h; exact ⟨hle, rfl⟩
  next => cases h

theorem decodeX_ok {last : Nat} {idx : Byte} {data : Word} {i : Byte → Instr} {j : Instr}
    (h : decodeX last idx data i = .ok j) : idx.toNat ≤ last ∧ j = i idx := by
  unfold decodeX at h
  split at h
  next hle => cases h; exact ⟨hle.1, rfl⟩
  next => cases h

/-- The command of fields that decode is well-formed and has their opcode (R67, R68, R70). -/
theorem decodeFields_sound {op idx : Byte} {data : Word} {i : Instr}
    (h : decodeFields op idx data = .ok i) : WellFormed i ∧ EncodedFields.opcode i = op := by
  have hopcode : ∀ n : Byte, op.toNat = n.toNat → n = op := fun n hn => BitVec.eq_of_toNat_eq hn.symm
  unfold decodeFields at h
  split at h
  next hop => cases decodeZ_ok h; exact ⟨rfl, hopcode 0x00 hop⟩
  next hop => cases decodeZ_ok h; exact ⟨rfl, hopcode 0x01 hop⟩
  next hop => cases decodeB_ok h; exact ⟨rfl, hopcode 0x02 hop⟩
  next hop => cases decodeZ_ok h; exact ⟨rfl, hopcode 0x03 hop⟩
  next hop => obtain ⟨hle, rfl⟩ := decodeXW_ok h; exact ⟨decide_eq_true hle, hopcode 0x04 hop⟩
  next hop => obtain ⟨hle, rfl⟩ := decodeXW_ok h; exact ⟨decide_eq_true hle, hopcode 0x05 hop⟩
  next hop => cases decodeZ_ok h; exact ⟨rfl, hopcode 0x06 hop⟩
  next hop => obtain ⟨hle, rfl⟩ := decodeX_ok h; exact ⟨decide_eq_true hle, hopcode 0x07 hop⟩
  next hop => obtain ⟨hle, rfl⟩ := decodeX_ok h; exact ⟨decide_eq_true hle, hopcode 0x08 hop⟩
  next hop => obtain ⟨hle, rfl⟩ := decodeX_ok h; exact ⟨decide_eq_true hle, hopcode 0x09 hop⟩
  next hop => obtain ⟨hle, rfl⟩ := decodeX_ok h; exact ⟨decide_eq_true hle, hopcode 0x0A hop⟩
  next hop => cases decodeZ_ok h; exact ⟨rfl, hopcode 0x0B hop⟩
  next => cases h

/-- The command of a word that decodes is well-formed and has the word's opcode. -/
theorem decode_sound {w : CmdWord} {i : Instr} (h : decode w = .ok i) :
    WellFormed i ∧ EncodedFields.opcode i = opField w :=
  decodeFields_sound h

section
variable {w : CmdWord} {i : Instr} {p : Phase} (hdec : decode w = .ok i)
include hdec

/-- A command barred in its phase leaves it (R22). -/
theorem phaseAfter_barred (hp : phaseBad (EncodedFields.opcode i) p) : phaseAfter w p = p := by
  rw [phaseAfter, hdec]
  cases i with
  | putb b => rfl
  | final => cases p with
    | absorb => exact absurd rfl hp
    | raw | done => rfl
  | ldh idx v => cases hp; rfl
  | ldw idx v => cases hp; rfl
  | comp => cases hp; rfl
  | _ => exact hp.elim

/-- So does a read. -/
theorem phaseAfter_read {s : State} {v : Word} (hv : responseOf i s = some v) : phaseAfter w p = p := by
  rw [phaseAfter, hdec]
  cases i with
  | nop | init | putb _ | final | ldh _ _ | ldw _ _ | comp => cases hv
  | _ => rfl

/-- Outside ABSORB a command of the raw path enters RAW (R22). -/
theorem phaseAfter_raw (hi : i = .comp ∨ (∃ idx v, i = .ldh idx v) ∨ ∃ idx v, i = .ldw idx v)
    (hp : p ≠ .absorb) : phaseAfter w p = .raw := by
  rw [phaseAfter, hdec]
  cases p with
  | absorb => exact absurd rfl hp
  | raw | done => obtain rfl | ⟨idx, v, rfl⟩ | ⟨idx, v, rfl⟩ := hi <;> rfl

end

/-- PHASE after a word, by the table (R22). -/
theorem execWord_PHASE {s t : State} {w : CmdWord} (h : execWord w s = .next t) :
    t.PHASE = phaseAfter w s.PHASE := by
  obtain ⟨code, hdec, rfl⟩ | ⟨i, hdec, hexec⟩ := execWord_cases h
  · rw [phaseAfter, hdec, raiseFault_PHASE]
  cases exec_answers hexec with
  | badField hbad => exact absurd (decode_sound hdec).1 hbad
  | barred _ hp => exact (phaseAfter_barred hdec hp).symm
  | nop => rw [phaseAfter, hdec]
  | init => rw [phaseAfter, hdec, startMessage_PHASE]
  | putbFull => rw [phaseAfter, hdec]; simp
  | putbShort => rw [phaseAfter, hdec]; simp
  | final hp => rw [phaseAfter, hdec, hp, enterPhase_PHASE]
  | ldh j hj hp => exact (phaseAfter_raw hdec (.inr (.inl ⟨_, _, rfl⟩)) hp).symm
  | ldw j hj hp => exact (phaseAfter_raw hdec (.inr (.inr ⟨_, _, rfl⟩)) hp).symm
  | comp hp => exact (phaseAfter_raw hdec (.inl rfl) hp).symm
  | read hv => exact (phaseAfter_read hdec hv).symm

/-- Settles O5: the table by the cases of a command's answer, the bar by `exec_barred`. -/
theorem phaseTransitions : Obligations.PhaseTransitions := by
  refine ⟨⟨rfl, rfl, rfl⟩, fun s w rest t hpres hstep => ?table, fun s w rest i hpres hdec hp => ?barred,
    fun s rest t hhost hstep => ?reset⟩
  case table =>
    rw [step_presents s w rest hpres] at hstep
    exact execWord_PHASE (s := takeOff rest s) hstep
  case barred =>
    obtain ⟨hwf, hop⟩ := decode_sound hdec
    rw [step_presents s w rest hpres, execWord, hdec]
    exact exec_barred hwf (by rwa [hop])
  case reset =>
    simp only [step, hhost] at hstep
    cases hstep
    rfl

/-! ### The elements that a command writes -/

theorem raiseFault_sameElement (code : FaultCode) (s : State) (e : Element) :
    sameElement e s (raiseFault code s) := by
  cases e <;> simp [sameElement]

/-- What pushes a response is a read, and may write RSP alone (R31). -/
theorem mayWrite_of_responseOf {i : Instr} {s : State} {v : Word} (hv : responseOf i s = some v) :
    mayWrite i = [.RSP] := by
  cases i with
  | nop | init | putb _ | final | ldh _ _ | ldw _ _ | comp => cases hv
  | _ => rfl

/-- An element outside a command's row of the access matrix is kept (R31). -/
theorem exec_sameElement {i : Instr} {s t : State} (hexec : exec i s = .next t) (e : Element)
    (he : e ∉ mayWrite i) : sameElement e s t := by
  cases exec_answers hexec with
  | badField => exact raiseFault_sameElement _ s e
  | barred => exact raiseFault_sameElement _ s e
  | read hv =>
    rw [mayWrite_of_responseOf hv] at he
    cases e <;> simp [sameElement] at he ⊢
  | _ => revert he; cases e <;> simp [mayWrite, sameElement]

/-- No command writes the sequencer or the host's side. -/
theorem exec_host {i : Instr} {s t : State} (hexec : exec i s = .next t) :
    t.host = s.host ∧ t.rspReady = s.rspReady ∧ t.received = s.received := by
  cases exec_answers hexec <;> simp

/-- LDH writes one word of H (R103). -/
theorem exec_ldh_other {idx : Byte} {v : Word} {s t : State} (hexec : exec (.ldh idx v) s = .next t)
    (j : Fin 5) (hj : j.val ≠ idx.toNat) : t.H[j] = s.H[j] := by
  cases exec_answers hexec with
  | badField => simp
  | barred => simp
  | ldh k hk => simp [Vector.getElem_set_ne, hk, hj.symm]
  | read hv => cases hv

/-- LDW writes one word of W (R104). -/
theorem exec_ldw_other {idx : Byte} {v : Word} {s t : State} (hexec : exec (.ldw idx v) s = .next t)
    (j : Fin 16) (hj : j.val ≠ idx.toNat) : t.W[j] = s.W[j] := by
  cases exec_answers hexec with
  | badField => simp
  | barred => simp
  | ldw k hk => simp [Vector.getElem_set_ne, hk, hj.symm]
  | read hv => cases hv

/-- PUTB writes BUF at N alone (R114). -/
theorem exec_putb_other {b : Byte} {s t : State} (hexec : exec (.putb b) s = .next t)
    (j : Fin 64) (hj : j ≠ s.N) : t.BUF[j] = s.BUF[j] := by
  have hne : s.N.val ≠ j.val := fun h => hj (Fin.ext h.symm)
  cases exec_answers hexec with
  | badField => simp
  | barred => simp
  | putbFull => simp [Vector.getElem_set_ne, hne]
  | putbShort => simp [Vector.getElem_set_ne, hne]
  | read hv => cases hv

/-- PUTB compresses nothing where it completes no block (R114). -/
theorem exec_putb_short {b : Byte} {s t : State} (hexec : exec (.putb b) s = .next t)
    (hN : s.N ≠ 63) (e : Element) (he : e = .H ∨ e = .W ∨ e = .working) : sameElement e s t := by
  cases exec_answers hexec with
  | badField => exact raiseFault_sameElement _ s e
  | barred => exact raiseFault_sameElement _ s e
  | putbFull _ hfull => exact absurd hfull hN
  | putbShort => obtain rfl | rfl | rfl := he <;> simp [sameElement]
  | read hv => cases hv

/-- Settles O6: the matrix, the fault record and the words that LDH, LDW and PUTB leave alone. -/
theorem commandsWriteOnlyTheirElements : Obligations.CommandsWriteOnlyTheirElements := by
  intro i s t hexec
  refine ⟨exec_sameElement hexec, ⟨exec_INFLIGHT hexec, exec_host hexec⟩,
    exec_sameRecord_or_fault hexec, ?ldh, ?ldw, ?putb⟩
  case ldh => rintro idx imm32 rfl; exact exec_ldh_other hexec
  case ldw => rintro idx imm32 rfl; exact exec_ldw_other hexec
  case putb =>
    rintro imm8 rfl
    exact ⟨exec_putb_other hexec, fun hN => ⟨exec_putb_short hexec hN .H (by simp),
      exec_putb_short hexec hN .W (by simp), exec_putb_short hexec hN .working (by simp)⟩⟩

end Sys2Proof.Machine
end

section
/-! A run of read commands (R53, R177, R185): each is performed in one step and its response handed over
in the next, so the host receives their words in order. The digest read by RDDIG and RDDIGB follows. -/

namespace Sys2Proof.Machine

/-! ### One read and its hand-over -/

/-- The engine after the host has taken the response words `vs`, in order (R28). -/
def afterResponses (vs : List Word) (s : State) : State :=
  { s with RSPD := vs.getLastD s.RSPD, received := s.received ++ vs }

theorem afterResponses_nil (s : State) : afterResponses [] s = s := by
  simp [afterResponses]

theorem afterResponses_cons (v : Word) (vs : List Word) (s : State) :
    afterResponses vs (afterResponses [v] s) = afterResponses (v :: vs) s := by
  simp only [afterResponses, List.getLastD_cons, List.getLastD_nil, List.append_assoc,
    List.singleton_append]

@[simp] theorem afterResponses_host (vs : List Word) (s : State) :
    (afterResponses vs s).host = s.host := (rfl)

theorem canAccept_afterResponses (vs : List Word) (s : State) :
    canAccept (afterResponses vs s) = canAccept s := rfl

/-- A response pushed with none waiting, and taken. -/
theorem handOver_rspPush {v : Word} {s : State} (hV : s.RSPV = false) :
    handOver (rspPush v s) = afterResponses [v] s := by
  simp [handOver, rspPush, afterResponses, hV]

/-- A read's word does not depend on the host's list or on the responses before it. -/
theorem responseOf_afterResponses (i : Instr) (vs : List Word) (rest : List HostAct) (s : State) :
    responseOf i (afterResponses vs (takeOff rest s)) = responseOf i s := by
  cases i <;> rfl

theorem responseOf_takeOff (i : Instr) (rest : List HostAct) (s : State) :
    responseOf i (takeOff rest s) = responseOf i s := by
  rw [← responseOf_afterResponses i [] rest s, afterResponses_nil]

/-- With commands or nothing to come, a waiting response is handed over to a host that is ready. -/
theorem step_handOver_asHost {s : State} (cmds : List Instr) (hhost : s.host = asHost cmds)
    (hI : s.INFLIGHT = .idle) (hV : s.RSPV = true) (hr : s.rspReady = true) :
    step s = .next (handOver s) := by
  cases cmds with
  | nil => simp [step, show s.host = [] from hhost, idle, hI, hV, hr]
  | cons i cmds => exact step_handOver s (encode i) (asHost cmds) hhost hI hV hr

/-- A read that is presented, and the hand-over of its response. -/
theorem run_read {s : State} {i : Instr} {v : Word} {cmds : List Instr} (n : Nat)
    (hacc : canAccept s = true) (hr : s.rspReady = true) (hhost : s.host = asHost (i :: cmds))
    (hdec : decode (encode i) = .ok i) (hv : responseOf i s = some v) :
    run (n + 2) s = run n (afterResponses [v] (takeOff (asHost cmds) s)) := by
  obtain ⟨hI, hV⟩ := (canAccept_iff s).mp hacc
  have hexec := exec_read ((responseOf_takeOff i (asHost cmds) s).trans hv)
  have hhand := step_handOver_asHost (s := rspPush v (takeOff (asHost cmds) s)) cmds
    (by simp) (by simp [hI]) (by simp) (by simp [hr])
  rw [run_succ_command (n + 1) hacc hhost hdec hexec]
  simp only [run, hhand]
  rw [handOver_rspPush (by simp [hV])]

/-! ### A list of reads -/

/-- Reads presented one after the other: two steps each, their words received in order. -/
theorem run_reads {ι : Type} (xs : List ι) (cmd : ι → Instr) (word : ι → Word) {s : State}
    (hdec : ∀ j, decode (encode (cmd j)) = .ok (cmd j))
    (hword : ∀ j, responseOf (cmd j) s = some (word j))
    (hacc : canAccept s = true) (hr : s.rspReady = true) (hhost : s.host = asHost (xs.map cmd)) :
    run (2 * xs.length) s = .next (afterResponses (xs.map word) (takeOff [] s)) := by
  induction xs generalizing s with
  | nil =>
    have hnil : s.host = [] := hhost
    rw [List.map_nil, afterResponses_nil, takeOff, ← hnil]
    rfl
  | cons j xs ih =>
    calc run (2 * xs.length + 2) s
        = run (2 * xs.length) (afterResponses [word j] (takeOff (asHost (xs.map cmd)) s)) :=
          run_read _ hacc hr hhost (hdec j) (hword j)
      _ = .next (afterResponses (xs.map word) (afterResponses [word j] (takeOff [] s))) :=
          ih (fun k => (responseOf_afterResponses _ _ _ s).trans (hword k)) hacc hr rfl
      _ = .next (afterResponses ((j :: xs).map word) (takeOff [] s)) := by
          rw [afterResponses_cons, List.map_cons]

/-- The same from an engine with nothing else to come: the run has ended. -/
theorem run_readOut {ι : Type} (xs : List ι) (cmd : ι → Instr) (word : ι → Word) {s : State}
    (hdec : ∀ j, decode (encode (cmd j)) = .ok (cmd j))
    (hword : ∀ j, responseOf (cmd j) s = some (word j))
    (hacc : canAccept s = true) (hhost : s.host = []) (hr : s.rspReady = true) :
    run (2 * xs.length) (withCommands (xs.map cmd) s) = .next (afterResponses (xs.map word) s) ∧
    ended (afterResponses (xs.map word) s) = true := by
  have hword' : ∀ j, responseOf (cmd j) (withCommands (xs.map cmd) s) = some (word j) := fun j =>
    (responseOf_takeOff (cmd j) _ s).trans (hword j)
  have hend : takeOff [] (withCommands (xs.map cmd) s) = s := by
    rw [takeOff, withCommands, ← hhost]
  have hrun := run_reads xs cmd word hdec hword' hacc hr (by simp [withCommands, hhost])
  rw [hend] at hrun
  exact ⟨hrun, by simp [ended, canAccept_afterResponses, hacc, hhost]⟩

/-! ### The digest -/

theorem decode_encode_rdh {idx : Byte} (h : idx.toNat ≤ 4) :
    decode (encode (.rdh idx)) = .ok (.rdh idx) := by
  simp [encode, decode_cmdWord, decodeFields, decodeX, h]

theorem decode_encode_rdb {idx : Byte} (h : idx.toNat ≤ 19) :
    decode (encode (.rdb idx)) = .ok (.rdb idx) := by
  simp [encode, decode_cmdWord, decodeFields, decodeX, h]

/-- A small index is the number in its idx field (R69). -/
theorem toNat_idx {n : Nat} (hn : n ≤ 256) (j : Fin n) : (BitVec.ofNat 8 j.val).toNat = j.val := by
  rw [BitVec.toNat_ofNat]
  omega

theorem rddig_eq : rddig = (List.finRange 5).map fun j => .rdh (BitVec.ofNat 8 j.val) := by decide

theorem rddigb_eq : rddigb = (List.finRange 20).map fun j => .rdb (BitVec.ofNat 8 j.val) := by decide

/-- RDDIG: the five words of H (R132). -/
theorem run_rddig {s : State} (hacc : canAccept s = true) (hhost : s.host = []) (hr : s.rspReady = true) :
    ∃ t, run 10 (withCommands rddig s) = .next t ∧ ended t = true ∧
      t = { s with RSPD := s.H[4], received := s.received ++ s.H.toList } := by
  have hidx := toNat_idx (n := 5) (by omega)
  obtain ⟨hrun, hended⟩ := run_readOut (List.finRange 5) (fun j => .rdh (BitVec.ofNat 8 j.val))
    (readH s) (fun j => decode_encode_rdh (by rw [hidx]; omega))
    (fun j => by rw [responseOf, element_of_val (hidx j).symm, Option.map_some]) hacc hhost hr
  rw [← rddig_eq] at hrun
  refine ⟨_, hrun, hended, ?_⟩
  have hwords : (List.finRange 5).map (readH s) = s.H.toList := by
    apply List.ext_getElem <;> simp [readH]
  rw [← hwords]
  rfl

/-- RDDIGB: the twenty digest bytes (R135). -/
theorem run_rddigb {s : State} (hacc : canAccept s = true) (hhost : s.host = [])
    (hr : s.rspReady = true) :
    ∃ t, run 40 (withCommands rddigb s) = .next t ∧ ended t = true ∧
      t = { s with
            RSPD := (digestByte s 19).setWidth 32
            received := s.received
              ++ (List.finRange 20).map fun j => (digestByte s j).setWidth 32 } := by
  have hidx := toNat_idx (n := 20) (by omega)
  obtain ⟨hrun, hended⟩ := run_readOut (List.finRange 20) (fun j => .rdb (BitVec.ofNat 8 j.val))
    (fun j => (digestByte s j).setWidth 32) (fun j => decode_encode_rdb (by rw [hidx]; omega))
    (fun j => by rw [responseOf, element_of_val (hidx j).symm, Option.map_some]) hacc hhost hr
  rw [← rddigb_eq] at hrun
  exact ⟨_, hrun, hended, rfl⟩

/-- Settles O44: both pseudo-commands are lists of reads (R79). -/
theorem readOutDeliversDigest : Obligations.ReadOutDeliversDigest := fun _ hacc hhost hr =>
  ⟨run_rddig hacc hhost hr, run_rddigb hacc hhost hr⟩

end Sys2Proof.Machine
end

section
/-! The reads as pure observations (R49): a well-formed read always has a word to push, and that word does
not depend on the response register or on what the host has received, so a repeated read gives it again. -/

namespace Sys2Proof.Machine

/-- A well-formed read has a word in every state: its index selects an element (R70). -/
theorem responseOf_eq_some {i : Instr} (s : State) (hr : isRead i = true) (hwf : WellFormed i) :
    ∃ v, responseOf i s = some v := by
  cases i with
  | nop | init | putb _ | final | ldh _ _ | ldw _ _ | comp => cases hr
  | rdh idx =>
    rw [responseOf, element_some 5 idx (Nat.lt_succ_of_le (of_decide_eq_true hwf))]
    exact ⟨_, rfl⟩
  | rdw idx =>
    rw [responseOf, element_some 16 idx (Nat.lt_succ_of_le (of_decide_eq_true hwf))]
    exact ⟨_, rfl⟩
  | rdb idx =>
    rw [responseOf, element_some 20 idx (Nat.lt_succ_of_le (of_decide_eq_true hwf))]
    exact ⟨_, rfl⟩
  | rdl idx =>
    rw [responseOf, element_some 2 idx (Nat.lt_succ_of_le (of_decide_eq_true hwf))]
    exact ⟨_, rfl⟩
  | rdst => exact ⟨_, rfl⟩

/-- No read looks at RSP: pushing a response leaves every read's word as it was. -/
theorem responseOf_rspPush (i : Instr) (v : Word) (s : State) :
    responseOf i (rspPush v s) = responseOf i s := by
  cases i <;> rfl

/-- Nor does the hand-over of a response change a read's word. -/
theorem responseOf_handOver (i : Instr) (s : State) :
    responseOf i (handOver s) = responseOf i s := by
  cases i <;> rfl

/-- Settles O43: the word a read pushes is the same before its response and after the hand-over. -/
theorem readsChangeOnlyResponse : Obligations.ReadsChangeOnlyResponse := by
  intro i s hr hwf
  obtain ⟨v, hv⟩ := responseOf_eq_some s hr hwf
  have hagain : responseOf i (handOver (rspPush v s)) = some v := by
    rw [responseOf_handOver, responseOf_rspPush, hv]
  exact ⟨v, exec_read hv, exec_read hagain⟩

end Sys2Proof.Machine
end

section
/-! The encoding (30_encoding.md): the fields of a word, the encoder and the decoder as inverses of each
other (R62 to R70), the opcode map (R67), and what the engine does with each word it takes (R68). -/

namespace Sys2Proof.Machine

open Sys2Proof.Laws.EncodedFields (opcode index immediate)

/-! ### The fields of a word -/

/-- Settles O9: each field is a quotient and a remainder of the word's number, and a concatenation of
fields is their weighted sum. -/
theorem commandWordFields : Obligations.CommandWordFields := by
  refine ⟨fun c => ⟨?op, ?idx, ?data, (cmdWord_fields c).symm, ?imm8⟩, fun op idx data => ?word⟩
  case op =>
    have hc : c.toNat < 2 ^ 48 := c.isLt
    rw [opField, extractLsb'_toNat_eq_div]
    omega
  case idx => rw [idxField, extractLsb'_toNat_eq_div]
  case data =>
    rw [dataField, extractLsb'_toNat_eq_div]
    omega
  case imm8 =>
    rw [imm8Of, dataField, extractLsb'_toNat_eq_div, extractLsb'_toNat_eq_div]
    omega
  case word =>
    rw [cmdWord, toNat_append_eq_add, toNat_append_eq_add]
    omega

/-- Two words are equal when their fields are (R62). -/
theorem cmdWord_inj {op idx op' idx' : Byte} {data data' : Word} :
    cmdWord op idx data = cmdWord op' idx' data' ↔ op = op' ∧ idx = idx' ∧ data = data' := by
  refine ⟨fun h => ⟨?_, ?_, ?_⟩, fun ⟨hop, hidx, hdata⟩ => by rw [hop, hidx, hdata]⟩
  · simpa using congrArg opField h
  · simpa using congrArg idxField h
  · simpa using congrArg dataField h

/-- A mask acts on each field by itself. -/
theorem cmdWord_and (op idx op' idx' : Byte) (data data' : Word) :
    cmdWord op idx data &&& cmdWord op' idx' data'
      = cmdWord (op &&& op') (idx &&& idx') (data &&& data') :=
  BitVec.and_append.trans (congrArg (· ++ (data &&& data')) BitVec.and_append)

/-! ### The byte immediate -/

/-- A data field is its upper 24 bits and its byte immediate (R64). -/
theorem data_eq_append (data : Word) : data.extractLsb' 8 24 ++ imm8Of data = data :=
  (BitVec.extractLsb'_append_extractLsb'_eq_extractLsb' (start₁ := 0) (len₁ := 8) rfl).trans
    BitVec.extractLsb'_eq_self

theorem extractLsb'_eq_zero_iff (data : Word) :
    data.extractLsb' 8 24 = 0 ↔ data.toNat / 2 ^ 8 = 0 := by
  have hdata := data.isLt
  have hnum : (data.extractLsb' 8 24).toNat = data.toNat / 2 ^ 8 := by
    rw [extractLsb'_toNat_eq_div]
    omega
  rw [← hnum]
  exact BitVec.toNat_inj.symm

/-- The data fields of format B are the byte immediates, each once (R64). -/
theorem eq_dataOfByte_iff {data : Word} {b : Byte} :
    data = dataOfByte b ↔ data.extractLsb' 8 24 = 0 ∧ imm8Of data = b := by
  constructor
  · rintro rfl
    exact ⟨BitVec.extractLsb'_append_eq_left, BitVec.extractLsb'_append_eq_right⟩
  · rintro ⟨hhigh, rfl⟩
    rw [dataOfByte, ← hhigh, data_eq_append]

/-- The mask of format B looks at the upper 24 bits alone (R67). -/
theorem and_byteMask_eq_zero_iff (data : Word) :
    data &&& 0xFFFFFF00 = 0 ↔ data.toNat / 2 ^ 8 = 0 := by
  have hand : data &&& 0xFFFFFF00 = data.extractLsb' 8 24 ++ (0 : Byte) := by
    calc data &&& 0xFFFFFF00
        = (data.extractLsb' 8 24 ++ imm8Of data) &&& (BitVec.allOnes 24 ++ (0 : Byte)) := by
          rw [data_eq_append]; rfl
      _ = data.extractLsb' 8 24 ++ (0 : Byte) := by
          rw [BitVec.and_append, BitVec.and_allOnes]; simp
  rw [hand, ← extractLsb'_eq_zero_iff]
  exact BitVec.append_left_inj (s₂ := 0) 0

/-! ### The formats -/

section
variable {last : Nat} {idx idx' : Byte} {data v : Word} {b : Byte}

theorem decodeZ_eq_ok_iff {i : Instr} : decodeZ idx data i = .ok i ↔ idx = 0 ∧ data = 0 := by
  unfold decodeZ
  split <;> simp_all

theorem decodeB_eq_ok_iff {f : Byte → Instr} (hf : Function.Injective f) :
    decodeB idx data f = .ok (f b) ↔ idx = 0 ∧ data = dataOfByte b := by
  rw [eq_dataOfByte_iff, ← and_assoc]
  unfold decodeB
  split <;> simp_all [hf.eq_iff]

theorem decodeXW_eq_ok_iff {f : Byte → Word → Instr} (hf : Function.Injective2 f)
    (hle : idx'.toNat ≤ last) :
    decodeXW last idx data f = .ok (f idx' v) ↔ idx = idx' ∧ data = v := by
  unfold decodeXW
  split
  · simp [hf.eq_iff]
  next hgt => exact iff_of_false nofun fun h => hgt (h.1 ▸ hle)

theorem decodeX_eq_ok_iff {f : Byte → Instr} (hf : Function.Injective f) (hle : idx'.toNat ≤ last) :
    decodeX last idx data f = .ok (f idx') ↔ idx = idx' ∧ data = 0 := by
  unfold decodeX
  split
  next hok => simp [hf.eq_iff, hok.2]
  next hbad => exact iff_of_false nofun fun h => hbad ⟨h.1 ▸ hle, h.2⟩

end

/-! ### Decoder and encoder -/

/-- The encoder puts the opcode and the operands of a command in their fields (R62). -/
theorem encode_eq_cmdWord (i : Instr) : encode i = cmdWord (opcode i) (index i) (immediate i) := by
  cases i <;> rfl

/-- Under its opcode a well-formed command is decoded from its operand fields and no others. -/
theorem decodeFields_opcode_iff {i : Instr} (hwf : WellFormed i) (idx : Byte) (data : Word) :
    decodeFields (opcode i) idx data = .ok i ↔ idx = index i ∧ data = immediate i := by
  cases i with
  | nop | init | final | comp | rdst => exact decodeZ_eq_ok_iff
  | putb b => exact decodeB_eq_ok_iff fun _ _ => Instr.putb.inj
  | ldh idx' v => exact decodeXW_eq_ok_iff (fun _ _ _ _ => Instr.ldh.inj) (of_decide_eq_true hwf)
  | ldw idx' v => exact decodeXW_eq_ok_iff (fun _ _ _ _ => Instr.ldw.inj) (of_decide_eq_true hwf)
  | rdh idx' => exact decodeX_eq_ok_iff (fun _ _ => Instr.rdh.inj) (of_decide_eq_true hwf)
  | rdw idx' => exact decodeX_eq_ok_iff (fun _ _ => Instr.rdw.inj) (of_decide_eq_true hwf)
  | rdb idx' => exact decodeX_eq_ok_iff (fun _ _ => Instr.rdb.inj) (of_decide_eq_true hwf)
  | rdl idx' => exact decodeX_eq_ok_iff (fun _ _ => Instr.rdl.inj) (of_decide_eq_true hwf)

theorem decode_encode {i : Instr} (hwf : WellFormed i) : decode (encode i) = .ok i := by
  rw [encode_eq_cmdWord, decode_cmdWord, decodeFields_opcode_iff hwf]
  exact ⟨rfl, rfl⟩

theorem encode_of_decode {c : CmdWord} {i : Instr} (h : decode c = .ok i) : encode i = c := by
  obtain ⟨hwf, hop⟩ := decode_sound h
  rw [decode, ← hop, decodeFields_opcode_iff hwf] at h
  rw [encode_eq_cmdWord, hop, ← h.1, ← h.2, cmdWord_fields]

/-- Settles O11: the decoder inverts the encoder on the operand fields of each command. -/
theorem decodeOfEncode : Obligations.DecodeOfEncode := fun _ => decode_encode

/-- Settles O12: a word that decodes has the opcode of its command, and then its operand fields. -/
theorem encodeOfDecode : Obligations.EncodeOfDecode := fun _ _ h =>
  ⟨(decode_sound h).1, encode_of_decode h⟩

/-- Settles O13: the decoder evaluated on each word. -/
theorem decodedSampleWords : Obligations.DecodedSampleWords := by
  unfold Obligations.DecodedSampleWords
  decide

/-! ### The field check -/

/-- `r` is the answer of R68 step 2 where R150 rejects the fields exactly under `bad`. -/
structure FieldCheck (bad : Prop) (r : Except FaultCode Instr) : Prop where
  error : bad → r = .error .illegalField
  ok : ¬ bad → ∃ i, r = .ok i

namespace FieldCheck

/-- A format tests that the fields are not bad. -/
theorem of_ite {bad ok : Prop} [Decidable ok] {i : Instr} (h : bad ↔ ¬ ok) :
    FieldCheck bad (if ok then .ok i else .error .illegalField) :=
  ⟨fun hbad => if_neg (h.mp hbad), fun hnot => ⟨i, if_pos (by simpa [h] using hnot)⟩⟩

variable (last : Nat) (idx : Byte) (data : Word)

theorem ofDecodeZ (i : Instr) : FieldCheck (idx ≠ 0 ∨ data ≠ 0) (decodeZ idx data i) :=
  of_ite not_and_or.symm

theorem ofDecodeB (f : Byte → Instr) :
    FieldCheck (idx ≠ 0 ∨ data.toNat / 2 ^ 8 ≠ 0) (decodeB idx data f) :=
  of_ite (by rw [extractLsb'_eq_zero_iff]; exact not_and_or.symm)

theorem ofDecodeXW (f : Byte → Word → Instr) :
    FieldCheck (idx.toNat > last) (decodeXW last idx data f) :=
  of_ite Nat.not_le.symm

theorem ofDecodeX (f : Byte → Instr) :
    FieldCheck (idx.toNat > last ∨ data ≠ 0) (decodeX last idx data f) :=
  of_ite (by rw [not_and_or, Nat.not_le])

end FieldCheck

/-- Step 2 of R68: on an assigned opcode the fields alone decide. -/
theorem decodeFields_fieldCheck {op : Byte} (hop : op.toNat ≤ 0x0B) (idx : Byte) (data : Word) :
    FieldCheck (fieldBad op idx data) (decodeFields op idx data) := by
  unfold fieldBad decodeFields
  generalize op.toNat = n at hop
  match n, hop with
  | 0x00, _ | 0x01, _ | 0x03, _ | 0x06, _ | 0x0B, _ => exact .ofDecodeZ idx data _
  | 0x02, _ => exact .ofDecodeB idx data _
  | 0x04, _ | 0x05, _ => exact .ofDecodeXW _ idx data _
  | 0x07, _ | 0x08, _ | 0x09, _ | 0x0A, _ => exact .ofDecodeX _ idx data _

/-- Step 1 of R68: an opcode outside the map. -/
theorem decodeFields_of_gt {op : Byte} (hop : op.toNat > 0x0B) (idx : Byte) (data : Word) :
    decodeFields op idx data = .error .illegalOpcode := by
  unfold decodeFields
  generalize op.toNat = n at hop
  match n, hop with
  | _ + 12, _ => rfl

theorem opcode_le (i : Instr) : (opcode i).toNat ≤ 0x0B := by
  cases i <;> simp [opcode]

/-- Under the opcode of a command a word decodes exactly when its fields are not bad. -/
theorem exists_decode_iff {c : CmdWord} {i : Instr} (hop : opField c = opcode i) :
    (∃ j, decode c = .ok j) ↔ ¬ fieldBad (opcode i) (idxField c) (dataField c) := by
  obtain ⟨hbad, hok⟩ := decodeFields_fieldCheck (opcode_le i) (idxField c) (dataField c)
  rw [decode, hop]
  refine ⟨fun ⟨j, hj⟩ hb => ?_, hok⟩
  rw [hbad hb] at hj
  cases hj

/-! ### The opcode map -/

/-- The bits of the idx field that a command's row fixes to zero: all where the format has no index. -/
def idxMask : Instr → Byte
  | .nop | .init | .putb _ | .final | .comp | .rdst => 0xFF
  | .ldh _ _ | .ldw _ _ | .rdh _ | .rdw _ | .rdb _ | .rdl _ => 0

/-- The bits of the data field that a command's row fixes to zero: those that hold no immediate. -/
def dataMask : Instr → Word
  | .putb _ => 0xFFFFFF00
  | .ldh _ _ | .ldw _ _ => 0
  | .nop | .init | .final | .comp | .rdh _ | .rdw _ | .rdb _ | .rdl _ | .rdst => 0xFFFFFFFF

/-- The last index of a command (R70), 0 where its format has none. -/
def lastIdx : Instr → Nat
  | .nop | .init | .putb _ | .final | .comp | .rdst => 0
  | .ldh _ _ | .rdh _ => 4
  | .ldw _ _ | .rdw _ => 15
  | .rdb _ => 19
  | .rdl _ => 1

/-- The row of a command in the opcode map, by its format. -/
def rowOf (i : Instr) : OpcodeRow :=
  ⟨i.mnemonic, cmdWord (opcode i) 0 0, cmdWord 0xFF (idxMask i) (dataMask i), lastIdx i⟩

/-- The opcode map is the rows of the twelve commands (R67). -/
theorem opcodeMap_eq_map_rowOf :
    opcodeMap = [.nop, .init, .putb 0, .final, .ldh 0 0, .ldw 0 0, .comp, .rdh 0, .rdw 0, .rdb 0,
      .rdl 0, .rdst].map rowOf := by
  decide

theorem rowOf_mem (i : Instr) : rowOf i ∈ opcodeMap := by
  rw [opcodeMap_eq_map_rowOf]
  cases i <;> simp [rowOf, Instr.mnemonic, opcode, idxMask, dataMask, lastIdx]

theorem exists_rowOf {r : OpcodeRow} (h : r ∈ opcodeMap) : ∃ i, rowOf i = r := by
  rw [opcodeMap_eq_map_rowOf] at h
  obtain ⟨i, -, hi⟩ := List.mem_map.mp h
  exact ⟨i, hi⟩

/-- Opcode and mnemonic name the same command: each stands in one row of the map (R67). -/
theorem opcode_eq_iff_mnemonic_eq {i j : Instr} : opcode i = opcode j ↔ i.mnemonic = j.mnemonic := by
  have hopcodes : (opcodeMap.map fun r => opField r.word).Nodup := by decide
  have hmnemonics : (opcodeMap.map OpcodeRow.mnemonic).Nodup := by decide
  constructor <;> intro h
  · have hword : opField (rowOf i).word = opField (rowOf j).word := by simp [rowOf, h]
    exact congrArg OpcodeRow.mnemonic
      (List.inj_on_of_nodup_map hopcodes (rowOf_mem i) (rowOf_mem j) hword)
  · have hrow := List.inj_on_of_nodup_map hmnemonics (rowOf_mem i) (rowOf_mem j) h
    simpa [rowOf] using congrArg (fun r => opField r.word) hrow

/-- What a row asks of the idx and data fields is that they are not bad (R67, R150). -/
theorem rowOf_fields_iff (i : Instr) (idx : Byte) (data : Word) :
    idx &&& idxMask i = 0 ∧ data &&& dataMask i = 0 ∧ idx.toNat ≤ lastIdx i ↔
      ¬ fieldBad (opcode i) idx data := by
  have hidx : idx &&& 0xFF#8 = idx := BitVec.and_allOnes
  have hdata : data &&& 0xFFFFFFFF#32 = data := BitVec.and_allOnes
  cases i with
  | nop | init | final | comp | rdst =>
    simp +contextual [idxMask, dataMask, lastIdx, opcode, fieldBad, hidx, hdata]
  | putb b =>
    have hmask : data &&& 0xFFFFFF00#32 = 0#32 ↔ _ := and_byteMask_eq_zero_iff data
    simp +contextual [idxMask, dataMask, lastIdx, opcode, fieldBad, hidx, hmask]
  | ldh _ _ | ldw _ _ => simp [idxMask, dataMask, lastIdx, opcode, fieldBad]
  | rdh _ | rdw _ | rdb _ | rdl _ =>
    simp [idxMask, dataMask, lastIdx, opcode, fieldBad, hdata, and_comm]

theorem selects_iff (r : OpcodeRow) (c : CmdWord) :
    r.selects c = true ↔ c &&& r.mask = r.word ∧ (idxField c).toNat ≤ r.lastIdx := by
  simp [OpcodeRow.selects]

/-- The row of a command selects the words with its opcode that decode. -/
theorem rowOf_selects_iff (i : Instr) (c : CmdWord) :
    (rowOf i).selects c = true ↔ opField c = opcode i ∧ ∃ j, decode c = .ok j := by
  have hop : opField c &&& 0xFF = opField c := BitVec.and_allOnes
  have hfields : c &&& (rowOf i).mask = (rowOf i).word ↔
      opField c = opcode i ∧ idxField c &&& idxMask i = 0 ∧ dataField c &&& dataMask i = 0 := by
    conv_lhs => rw [← cmdWord_fields c]
    rw [rowOf, cmdWord_and, cmdWord_inj, hop]
  rw [selects_iff, hfields, and_assoc, and_assoc]
  exact and_congr_right fun h => (rowOf_fields_iff i _ _).trans (exists_decode_iff h).symm

/-- Settles O10: the row of a command selects the decodable words with its opcode. -/
theorem opcodeMapSelects : Obligations.OpcodeMapSelects := by
  refine ⟨rfl, fun c => ⟨fun r _ => selects_iff r c, ⟨?selected, ?decodes⟩, ?row⟩⟩
  case selected =>
    rintro ⟨i, hdec⟩
    exact ⟨rowOf i, rowOf_mem i, (rowOf_selects_iff i c).mpr ⟨(decode_sound hdec).2.symm, i, hdec⟩⟩
  case decodes =>
    rintro ⟨r, hr, hsel⟩
    obtain ⟨i, rfl⟩ := exists_rowOf hr
    exact ((rowOf_selects_iff i c).mp hsel).2
  case row =>
    intro j hdec r hr
    obtain ⟨i, rfl⟩ := exists_rowOf hr
    calc (rowOf i).selects c = true
        ↔ opField c = opcode i := by rw [rowOf_selects_iff, and_iff_left ⟨j, hdec⟩]
      _ ↔ opcode i = opcode j := by rw [(decode_sound hdec).2, eq_comm]
      _ ↔ (rowOf i).mnemonic = j.mnemonic := opcode_eq_iff_mnemonic_eq

/-! ### A word that the engine takes -/

/-- A command that passes the checks of R68 raises no fault. -/
theorem exec_accepted {i : Instr} {s : State} (hwf : WellFormed i)
    (hp : ¬ phaseBad (opcode i) s.PHASE) :
    ∃ t, exec i s = .next t ∧ t.ERR = s.ERR ∧ t.ECODE = s.ECODE := by
  obtain ⟨t, hexec⟩ := exec_total i s
  refine ⟨t, hexec, ?_⟩
  cases exec_answers hexec with
  | badField hbad => exact absurd hwf hbad
  | barred _ hbar => exact absurd hbar hp
  | _ => exact ⟨by simp, by simp⟩

section
variable {s : State} {w : CmdWord} {rest : List HostAct} (hpres : Presents s w rest)
include hpres

/-- A word that does not decode raises its fault (R68). -/
theorem step_of_decode_error {code : FaultCode} (hdec : decode w = .error code) :
    step s = .next (raiseFault code (takeOff rest s)) := by
  rw [step_presents s w rest hpres, execWord, hdec]

/-- A word that decodes is performed (R53, R68). -/
theorem step_of_decode_ok {i : Instr} (hdec : decode w = .ok i) : step s = exec i (takeOff rest s) := by
  rw [step_presents s w rest hpres, execWord, hdec]

end

/-- Settles O48: the opcode decides first, then the fields, then the phase. -/
theorem decodeAndFaultOrder : Obligations.DecodeAndFaultOrder := by
  intro s op idx data rest hpres
  have hdecode := decode_cmdWord op idx data
  refine ⟨fun hgt => ?opcode, fun hop hbad => ?field, fun hop hok hp => ?phase,
    fun hop hok hp => ?performed⟩
  case opcode =>
    exact step_of_decode_error hpres (hdecode.trans (decodeFields_of_gt hgt idx data))
  case field =>
    exact step_of_decode_error hpres
      (hdecode.trans ((decodeFields_fieldCheck hop idx data).error hbad))
  case phase =>
    obtain ⟨i, hi⟩ := (decodeFields_fieldCheck hop idx data).ok hok
    obtain ⟨hwf, rfl⟩ := decodeFields_sound hi
    rw [step_of_decode_ok hpres (hdecode.trans hi)]
    exact exec_barred hwf hp
  case performed =>
    obtain ⟨i, hi⟩ := (decodeFields_fieldCheck hop idx data).ok hok
    obtain ⟨hwf, rfl⟩ := decodeFields_sound hi
    obtain ⟨t, hexec, hsame⟩ := exec_accepted (s := takeOff rest s) hwf hp
    exact ⟨i, t, hdecode.trans hi, step_of_decode_ok hpres (hdecode.trans hi), hexec, hsame⟩

/-- A table word that decodes is a command word that decodes. -/
theorem decode_of_decodeTableWord {nbits w : Nat} {i : Instr} (h : decodeTableWord nbits w = some i) :
    decode (BitVec.ofNat 48 (w % 2 ^ nbits)) = .ok i := by
  unfold decodeTableWord at h
  split at h
  · cases hdec : decode (BitVec.ofNat 48 (w % 2 ^ nbits)) with
    | error code => rw [hdec] at h; cases h
    | ok j => rw [hdec] at h; cases h; rfl
  · cases h

/-- A placed word is the next one that the engine takes. -/
theorem presents_placeWord (nbits w : Nat) (s : State) :
    Presents (placeWord nbits w s) (BitVec.ofNat 48 (w % 2 ^ nbits)) s.host :=
  ⟨by simp [canAccept_iff], placeWord_host nbits w s⟩

/-- Settles O51: a presented word is performed, a placed word is presented, and an engine with nothing
to take waits. -/
theorem stepRunsDecodedCommand : Obligations.StepRunsDecodedCommand := by
  refine ⟨fun s w rest i hpres hdec => step_of_decode_ok hpres hdec, fun s nbits w i hw => ?placed,
    fun s hacc hhost => ?waits⟩
  case placed => exact step_of_decode_ok (presents_placeWord nbits w s) (decode_of_decodeTableWord hw)
  case waits =>
    obtain ⟨hidle, hempty⟩ := (canAccept_iff s).mp hacc
    simp [step, hhost, idle_iff, hidle, hempty]

end Sys2Proof.Machine
end

section
/-! The stage functions and constants (R87 to R89), the single steps of a compression (R93, R94, R98) and
the compression as a whole (R92, R99 to R101). -/

namespace Sys2Proof.Machine

/-! ### The four stages -/

section Stages
variable {t : Nat} (b c d : Word)

/-- Stage 0 (R87). -/
theorem stageF_choose (h : t / 20 = 0) : stageF t b c d = (b &&& (c ^^^ d)) ^^^ d := by
  simp only [stageF, h]

/-- Stages 1 and 3 (R87). -/
theorem stageF_parity (h : t / 20 = 1 ∨ t / 20 = 3) : stageF t b c d = b ^^^ c ^^^ d := by
  obtain h | h := h <;> simp only [stageF, h]

/-- Stage 2 (R87). -/
theorem stageF_majority (h : t / 20 = 2) :
    stageF t b c d = (b &&& c) ||| (b &&& d) ||| (c &&& d) := by
  simp only [stageF, h]

/-- Stage 0 with the bits of `b` as the choice between those of `c` and `d` (R88). -/
theorem stageF_choose_eq_or (h : t / 20 = 0) : stageF t b c d = (b &&& c) ||| (~~~b &&& d) := by
  have hbit : ∀ x y z : Bool, ((x && (y ^^ z)) ^^ z) = ((x && y) || (!x && z)) := by decide
  rw [stageF_choose b c d h]
  apply BitVec.eq_of_getLsbD_eq
  intro i hi
  simpa [hi] using hbit (b.getLsbD i) (c.getLsbD i) (d.getLsbD i)

/-- Stage 2 with `b AND c` split off (R88). -/
theorem stageF_majority_eq_or (h : t / 20 = 2) :
    stageF t b c d = ((b ||| c) &&& d) ||| (b &&& c) := by
  have hbit : ∀ x y z : Bool,
      ((x && y) || (x && z) || (y && z)) = (((x || y) && z) || (x && y)) := by decide
  rw [stageF_majority b c d h]
  apply BitVec.eq_of_getLsbD_eq
  intro i hi
  simpa [hi] using hbit (b.getLsbD i) (c.getLsbD i) (d.getLsbD i)

end Stages

/-- Settles O14: the stage of a round is its number divided by 20. -/
theorem stageFunctionsAndConstants : Obligations.StageFunctionsAndConstants := by
  intro t b c d
  refine ⟨fun hhigh => ?stage0, fun hlow hhigh => ?stage1, fun hlow hhigh => ?stage2,
    fun hlow hhigh => ?stage3⟩
  case stage0 =>
    have h : t / 20 = 0 := by omega
    exact ⟨stageF_choose b c d h, by simp only [stageK, h]⟩
  case stage1 =>
    have h : t / 20 = 1 := by omega
    exact ⟨stageF_parity b c d (.inl h), by simp only [stageK, h]⟩
  case stage2 =>
    have h : t / 20 = 2 := by omega
    exact ⟨stageF_majority b c d h, by simp only [stageK, h]⟩
  case stage3 =>
    have h : t / 20 = 3 := by omega
    exact ⟨stageF_parity b c d (.inr h), by simp only [stageK, h]⟩

/-- Settles O15: the forms agree bit by bit, and at each bit the three inputs name their row. -/
theorem stageFunctionForms : Obligations.StageFunctionForms := by
  intro t b c d
  refine ⟨fun hhigh => stageF_choose_eq_or b c d (by omega),
    fun hlow hhigh => stageF_majority_eq_or b c d (by omega), fun i _ => ?row⟩
  rw [stageF_choose b c d (by decide), stageF_parity b c d (by decide),
    stageF_parity b c d (by decide), stageF_majority b c d (by decide)]
  simp only [BitVec.getLsbD_xor, BitVec.getLsbD_and, BitVec.getLsbD_or]
  generalize b.getLsbD i = x, c.getLsbD i = y, d.getLsbD i = z
  revert x y z
  decide

/-! ### START, ROUND and FOLD -/

section Rounds
variable {i : Instr} {more : Bool} {s : State} (hI : s.INFLIGHT = .rounds i more)
include hI

/-- While T is below 80 the next micro-step of the rounds is a ROUND (R94). -/
theorem microStep_rounds (hT : s.T.val < 80) : microStep s = .next (roundStep s) := by
  simp only [microStep, hI, hT, if_true]

/-- At T = 80 it is the FOLD edge (R98). -/
theorem microStep_foldEdge (hT : s.T = 80) : microStep s = .next (foldEdge i more s) := by
  have hend : ¬ s.T.val < 80 := by simp [hT]
  simp only [microStep, hI, hend, if_false]

end Rounds

/-- The writes at a command's last FOLD edge leave H and the pipeline as they are (R48). -/
theorem finishCommand_compression (i : Instr) (s : State) :
    (finishCommand i s).H = s.H ∧ SamePipeline s (finishCommand i s) := by
  cases i <;> simp [finishCommand, SamePipeline]

/-- The FOLD edge is FOLD on H, and keeps the working variables and T (R98). -/
theorem foldEdge_compression (i : Instr) (more : Bool) (s : State) :
    (foldEdge i more s).H = (foldStep s).H ∧ working (foldEdge i more s) = working s ∧
      (foldEdge i more s).T = s.T := by
  cases more with
  | true => exact ⟨rfl, rfl, rfl⟩
  | false =>
    obtain ⟨hH, -, hA, hB, hC, hD, hE, hT⟩ := finishCommand_compression i (foldStep s)
    simp [foldEdge, working, hH, hA, hB, hC, hD, hE, hT]

theorem working_eq_iff {s t : State} :
    working t = working s ↔ t.A = s.A ∧ t.B = s.B ∧ t.C = s.C ∧ t.D = s.D ∧ t.E = s.E := by
  simp [working]

/-- Settles O16: START and FOLD as they are defined, and the sequencer's choice by T. -/
theorem startAndFoldSteps : Obligations.StartAndFoldSteps := by
  refine ⟨fun s => ⟨rfl, rfl⟩,
    fun s i more hI => ⟨microStep_foldEdge hI, fun hT => microStep_rounds hI ?below⟩,
    fun i more s => ?fold⟩
  case below => omega
  case fold =>
    obtain ⟨hH, hwork, hT⟩ := foldEdge_compression i more s
    obtain ⟨hA, hB, hC, hD, hE⟩ := working_eq_iff.mp hwork
    exact ⟨hH, hA, hB, hC, hD, hE, hT⟩

/-- Settles O17: ROUND where it is enabled, where it is not, and evaluated after START on the block of
the rule's example. -/
theorem roundStepRule : Obligations.RoundStepRule := by
  refine ⟨fun s h => roundStep_enabled s h, fun s hT => roundStep_disabled s (by simp [hT]), by decide,
    fun s hH hW => ?firstRound⟩
  rw [roundStep_enabled _ (by simp)]
  have hword : roundWord s.W 0 = 0x61626380 := hW
  have htemp : roundTemp 0 iv[0] iv[1] iv[2] iv[3] iv[4] 0x61626380 = 0x0116FC33 := by decide
  have hrot : rotl 30 iv[1] = 0x7BF36AE2 := by decide
  simp only [startStep_A, startStep_B, startStep_C, startStep_D, startStep_E, startStep_T, startStep_W,
    hH, hword, Fin.val_zero]
  exact ⟨htemp, rfl, hrot, rfl, rfl, rfl⟩

/-! ### The compression -/

/-- T counts the rounds since START (R17). -/
theorem roundsStep_startStep_T {n : Nat} (hn : n ≤ 80) (s : State) :
    (roundsStep n (startStep s)).T.val = n := by
  rw [roundsStep_T n _ (by simpa using hn), startStep_T, Fin.val_zero, Nat.zero_add]

/-- Settles O18: the ring after any number of rounds holds the latest sixteen words of the schedule. -/
theorem ringHoldsSchedule : Obligations.RingHoldsSchedule := by
  refine ⟨isSchedule_schedule, fun s S hS t ht => ⟨roundsStep_startStep_T (by omega) s, ?word, ?ring⟩⟩
  case word => exact roundWord_eq_schedule hS (rounds_follow_schedule s hS t (by omega)).1 ht
  case ring =>
    intro hlow j hfirst hlast
    exact (rounds_follow_schedule s hS (t + 1) (by omega)).1 j _ _ rfl (by omega) (by omega)

section Schedule
variable (s : State) {S : Nat → Word} (hS : IsSchedule s.W S)
include hS

/-- START, `N` rounds and FOLD as an update of the state by R99's recurrence: the number of rounds stays a
variable, so that no check runs them. -/
theorem foldRounds_eq (N : Nat) (hN : N = 80) :
    foldStep (roundsStep N (startStep s)) =
      { s with
        H := Vector.ofFn fun j : Fin 5 => s.H[j] + (workingAt s.H S N)[j]
        W := Vector.ofFn fun j : Fin 16 => S (64 + j.val)
        A := (workingAt s.H S N)[0]
        B := (workingAt s.H S N)[1]
        C := (workingAt s.H S N)[2]
        D := (workingAt s.H S N)[3]
        E := (workingAt s.H S N)[4]
        T := 80 } := by
  obtain ⟨hring, hwork⟩ := rounds_follow_schedule s hS N (by omega)
  ext1
  case H =>
    ext1 j hj
    rw [foldStep_H_getElem, hwork, roundsStep_H, startStep_H, Vector.getElem_ofFn]
    rfl
  case W =>
    ext1 j hj
    rw [foldStep_W, Vector.getElem_ofFn, hring (64 + j) j hj (by omega) (by omega) (by omega)]
  case A | B | C | D | E => rw [← hwork]; rfl
  case T => exact Fin.ext ((foldRounds_T N s (by omega)).trans hN)
  all_goals simp

end Schedule

/-- Settles O19: the rounds follow R99's recurrence and leave the ring at the last sixteen words. -/
theorem compressIsPureFunction : Obligations.CompressIsPureFunction := by
  refine ⟨fun s => by rw [compress], fun s S hS => ?_⟩
  rw [compress]
  exact foldRounds_eq s hS 80 rfl

/-- A micro-step of a compression in flight keeps H while T is below 80 (R101). -/
theorem microStep_keeps_H {s t : State} (hbusy : busyO s = true) (hacc : ∀ w, s.INFLIGHT ≠ .accepted w)
    (hT : s.T.val < 80) (h : microStep s = .next t) : t.H = s.H := by
  cases hI : s.INFLIGHT with
  | idle => simp [busyO, idle, hI] at hbusy
  | accepted w => exact absurd hI (hacc w)
  | start i more =>
    simp only [microStep, hI] at h
    cases h
    simp
  | rounds i more =>
    rw [microStep_rounds hI hT] at h
    cases h
    exact roundStep_H s

/-- FOLD after any number of rounds adds to the H that START found (R98, R101). -/
theorem foldRounds_H_eq (n : Nat) (s : State) :
    (foldStep (roundsStep n (startStep s))).H =
      #v[s.H[0] + (roundsStep n (startStep s)).A, s.H[1] + (roundsStep n (startStep s)).B,
         s.H[2] + (roundsStep n (startStep s)).C, s.H[3] + (roundsStep n (startStep s)).D,
         s.H[4] + (roundsStep n (startStep s)).E] := by
  simp only [foldStep_H, roundsStep_H, startStep_H, add32]

/-- Settles O20: neither START nor a ROUND writes H, and FOLD writes it once. -/
theorem chainingStateHeldUntilFold : Obligations.ChainingStateHeldUntilFold := by
  refine ⟨fun s n => by rw [roundsStep_H, startStep_H], fun s t => microStep_keeps_H, fun s => ?_⟩
  rw [compress]
  exact foldRounds_H_eq 80 s

end Sys2Proof.Machine
end

section
/-! The raw-path commands LDH, LDW and COMP (R103 to R105): what each answers in every state, and from it
the effect of every word with its opcode. -/

namespace Sys2Proof.Machine

/-! ### From a command's meaning to the effect of its words -/

/-- Where R150 rejects the fields under `bad` and they are else those of a command, every word with the
opcode raises ILLEGAL_FIELD or does what that command does (R68). -/
theorem wordEffect_of_fields {op : Byte} {bad : Byte → Word → Prop}
    [∀ idx data, Decidable (bad idx data)] {i : Byte → Word → Instr} {f : Byte → Word → State → State}
    (hbad : ∀ idx data, bad idx data → decodeFields op idx data = .error .illegalField)
    (hok : ∀ idx data, ¬ bad idx data → decodeFields op idx data = .ok (i idx data))
    (hexec : ∀ idx data s, ¬ bad idx data → exec (i idx data) s = .next (f idx data s)) :
    WordEffect op fun idx data s =>
      if bad idx data then raiseFault .illegalField s else f idx data s := by
  intro s idx data rest hpres
  have hdec := decode_cmdWord op idx data
  beta_reduce
  split
  next h => exact step_of_decode_error hpres (hdec.trans (hbad idx data h))
  next h => rw [step_of_decode_ok hpres (hdec.trans (hok idx data h)), hexec idx data _ h]

/-- The words of a format-Z command (R63). -/
theorem wordEffect_of_decodeZ {op : Byte} {i : Instr} {f : State → State}
    (hdec : ∀ idx data, decodeFields op idx data = decodeZ idx data i)
    (hexec : ∀ s, exec i s = .next (f s)) :
    WordEffect op fun idx data s =>
      if idx ≠ 0 ∨ data ≠ 0 then raiseFault .illegalField s else f s :=
  wordEffect_of_fields
    (fun idx data h => (hdec idx data).trans (if_neg (not_and_or.mpr h)))
    (fun idx data h => (hdec idx data).trans (if_pos (by simpa using h)))
    fun _ _ s _ => hexec s

/-- The words of a format-XW command with indices up to `last` (R65). -/
theorem wordEffect_of_decodeXW {op : Byte} {last : Nat} {i : Byte → Word → Instr}
    {f : Byte → Word → State → State}
    (hdec : ∀ idx data, decodeFields op idx data = decodeXW last idx data i)
    (hexec : ∀ idx data s, idx.toNat ≤ last → exec (i idx data) s = .next (f idx data s)) :
    WordEffect op fun idx data s =>
      if idx.toNat > last then raiseFault .illegalField s else f idx data s :=
  wordEffect_of_fields
    (fun idx data h => (hdec idx data).trans (if_neg (Nat.not_le.mpr h)))
    (fun idx data h => (hdec idx data).trans (if_pos (Nat.not_lt.mp h)))
    fun idx data s h => hexec idx data s (Nat.not_lt.mp h)

/-! ### LDH, LDW and COMP -/

/-- In range the write with a bounds check is the write of the model. -/
theorem setIfInBounds_eq_set {n : Nat} (xs : Vector Word n) (j : Nat) (hj : j < n) (v : Word) :
    xs.setIfInBounds j v = xs.set j v := by
  ext1 k hk
  rw [Vector.getElem_setIfInBounds, Vector.getElem_set]

/-- LDH on an index in range (R103). -/
theorem exec_ldh {idx : Byte} (v : Word) (s : State) (hidx : idx.toNat ≤ 4) :
    exec (.ldh idx v) s = .next
      (if s.PHASE = .absorb then raiseFault .sequence s
       else { s with H := s.H.setIfInBounds idx.toNat v, PHASE := .raw }) := by
  split
  next hp => exact exec_barred (decide_eq_true hidx) hp
  next hp =>
    rw [setIfInBounds_eq_set s.H _ (Nat.lt_succ_of_le hidx)]
    exact exec_of_answers (.ldh ⟨idx.toNat, Nat.lt_succ_of_le hidx⟩ rfl hp)

/-- LDW on an index in range (R104). -/
theorem exec_ldw {idx : Byte} (v : Word) (s : State) (hidx : idx.toNat ≤ 15) :
    exec (.ldw idx v) s = .next
      (if s.PHASE = .absorb then raiseFault .sequence s
       else { s with W := s.W.setIfInBounds idx.toNat v, PHASE := .raw }) := by
  split
  next hp => exact exec_barred (decide_eq_true hidx) hp
  next hp =>
    rw [setIfInBounds_eq_set s.W _ (Nat.lt_succ_of_le hidx)]
    exact exec_of_answers (.ldw ⟨idx.toNat, Nat.lt_succ_of_le hidx⟩ rfl hp)

/-- COMP (R105). -/
theorem exec_comp (s : State) :
    exec .comp s = .next
      (if s.PHASE = .absorb then raiseFault .sequence s else { compress s with PHASE := .raw }) := by
  split
  next hp => exact exec_barred rfl hp
  next hp => exact exec_of_answers (.comp hp)

/-- Settles O21: format XW over what LDH answers. -/
theorem ldhLoadsChainingWord : Obligations.LdhLoadsChainingWord :=
  ⟨fun _ _ => rfl, wordEffect_of_decodeXW (fun _ _ => rfl) fun _ data s => exec_ldh data s,
    fun _ imm32 s hidx hp => by rw [exec_ldh imm32 s hidx, if_neg hp]⟩

/-- Settles O22: format XW over what LDW answers. -/
theorem ldwLoadsBlockWord : Obligations.LdwLoadsBlockWord :=
  ⟨fun _ _ => rfl, wordEffect_of_decodeXW (fun _ _ => rfl) fun _ data s => exec_ldw data s,
    fun _ imm32 s hidx hp => by rw [exec_ldw imm32 s hidx, if_neg hp]⟩

/-- Settles O23: format Z over what COMP answers. -/
theorem compCompressesBlock : Obligations.CompCompressesBlock :=
  ⟨by decide, wordEffect_of_decodeZ (fun _ _ => rfl) exec_comp,
    fun s hp => by rw [exec_comp s, if_neg hp]⟩

end Sys2Proof.Machine
end

section
/-! The raw path against the digest path (R106): lists of commands as steps between conditions on the
state, the loads of H and of a block, COMP per padded block, and the two runs side by side. -/

namespace Sys2Proof.Machine

/-! ### Runs of command lists -/

/-- From a state with `P` that can take a word, the commands lead in one step each to a state with `Q`
that can take a further word. -/
def Leads (cmds : List Instr) (P Q : State → Prop) : Prop :=
  ∀ s rest, canAccept s = true → s.host = asHost cmds ++ rest → P s →
    ∃ t, run cmds.length s = .next t ∧ canAccept t = true ∧ t.host = rest ∧ Q t

theorem leads_nil {P Q : State → Prop} (h : ∀ s, P s → Q s) : Leads [] P Q :=
  fun s _ hacc hhost hs => ⟨s, rfl, hacc, hhost, h s hs⟩

theorem Leads.append {as bs : List Instr} {P Q R : State → Prop} (h : Leads as P Q)
    (h' : Leads bs Q R) : Leads (as ++ bs) P R := by
  intro s rest hacc hhost hs
  rw [asHost, List.map_append, List.append_assoc] at hhost
  obtain ⟨u, hrun, haccu, hhostu, hu⟩ := h s _ hacc hhost hs
  obtain ⟨t, hrun', hacct, hhostt, ht⟩ := h' u rest haccu hhostu hu
  exact ⟨t, by rw [List.length_append, run_add _ _ _ u hrun, hrun'], hacct, hhostt, ht⟩

/-- A command that neither faults nor responds, performed on the state that its word is taken off. -/
theorem leads_command {i : Instr} {P Q : State → Prop} (hwf : WellFormed i)
    (h : ∀ s rest, P s →
      ∃ t, exec i (takeOff rest s) = .next t ∧ KeepsPort (takeOff rest s) t ∧ Q t) :
    Leads [i] P Q := by
  intro s rest hacc hhost hs
  obtain ⟨t, hexec, hkeep, ht⟩ := h s rest hs
  exact ⟨t, run_succ_command 0 hacc hhost (decode_encode hwf) hexec, hkeep.canAccept.trans hacc,
    hkeep.host, ht⟩

/-- Commands that keep `P`, each bringing about a condition `D` of its own and undoing no other's, bring
about all of them. -/
theorem leads_map {ι : Type} {cmd : ι → Instr} {P : State → Prop} {D : ι → State → Prop}
    (hwf : ∀ j, WellFormed (cmd j))
    (h : ∀ j s rest, P s → ∃ t, exec (cmd j) (takeOff rest s) = .next t ∧ KeepsPort (takeOff rest s) t ∧
      P t ∧ D j t ∧ ∀ k, D k s → D k t) (js : List ι) :
    Leads (js.map cmd) P fun t => P t ∧ ∀ j ∈ js, D j t := by
  induction js using List.reverseRecOn with
  | nil => exact leads_nil fun s hs => ⟨hs, by simp⟩
  | append_singleton js j ih =>
    rw [List.map_append]
    refine ih.append (leads_command (hwf j) fun s rest ⟨hs, hdone⟩ => ?_)
    obtain ⟨t, hexec, hkeep, ht, hj, hold⟩ := h j s rest hs
    refine ⟨t, hexec, hkeep, ht, fun k hk => ?_⟩
    rcases List.mem_append.mp hk with hk | hk
    · exact hold k (hdone k hk)
    · exact List.mem_singleton.mp hk ▸ hj

/-! ### The raw path -/

/-- Outside ABSORB with N and LEN as given: where the raw path may start (R106). -/
def OffMessage (n : Fin 64) (len : Len) (s : State) : Prop :=
  s.PHASE ≠ .absorb ∧ s.N = n ∧ s.LEN = len

/-- On the raw path with N and LEN as they were, and the chaining value in H (R106). -/
def OnRawPath (n : Fin 64) (len : Len) (h : Vector Word 5) (s : State) : Prop :=
  s.PHASE = .raw ∧ s.N = n ∧ s.LEN = len ∧ s.H = h

theorem ldiv_eq : ldiv = (List.finRange 5).map fun j => .ldh (BitVec.ofNat 8 j.val) iv[j] := by decide

/-- After a write of one element of `value`, every element that held its own still holds it. -/
theorem eq_value_of_write {ι : Type} [DecidableEq ι] {value : ι → Word} {j k : ι} {old new : Word}
    (hnew : new = if j = k then value j else old) (hold : old = value k) : new = value k := by
  split at hnew
  next hjk => rw [hnew, hjk]
  next => rw [hnew, hold]

section RawPath
variable (n : Fin 64) (len : Len)

/-- LDIV leaves IV in H (R79, R103). -/
theorem leads_ldiv : Leads ldiv (OffMessage n len) (OnRawPath n len iv) := by
  have hidx (j : Fin 5) : (BitVec.ofNat 8 j.val).toNat = j.val := toNat_idx (by decide) j
  have hload := leads_map (cmd := fun j : Fin 5 => .ldh (BitVec.ofNat 8 j.val) iv[j])
    (P := OffMessage n len) (D := fun j s => s.PHASE = .raw ∧ readH s j = iv[j])
    (fun j => decide_eq_true (by rw [hidx]; omega))
    (fun j s rest ⟨hp, hN, hL⟩ => ⟨_, exec_of_answers (.ldh j (hidx j).symm hp),
      by constructor <;> simp, ⟨by simp, hN, hL⟩, ⟨rfl, (readH_writeH j j _ s).trans (if_pos rfl)⟩,
      fun k ⟨_, hk⟩ =>
        ⟨rfl, eq_value_of_write (value := fun j => iv[j]) (readH_writeH j k _ s) hk⟩⟩)
    (List.finRange 5)
  rw [← ldiv_eq] at hload
  intro s rest hacc hhost hs
  obtain ⟨t, hrun, hacct, hhostt, ⟨-, hN, hL⟩, hall⟩ := hload s rest hacc hhost hs
  exact ⟨t, hrun, hacct, hhostt, (hall 0 (List.mem_finRange 0)).1, hN, hL,
    Vector.ext fun j hj => (hall ⟨j, hj⟩ (List.mem_finRange _)).2⟩

/-- LDBLK leaves its block in W (R79, R104). -/
theorem leads_ldblk (h : Vector Word 5) (block : Vector Word 16) :
    Leads (ldblk block) (OnRawPath n len h) fun s => OnRawPath n len h s ∧ s.W = block := by
  have hidx (j : Fin 16) : (BitVec.ofNat 8 j.val).toNat = j.val := toNat_idx (by decide) j
  have hload := leads_map (cmd := fun j : Fin 16 => .ldw (BitVec.ofNat 8 j.val) block[j])
    (P := OnRawPath n len h) (D := fun j s => readW s j = block[j])
    (fun j => decide_eq_true (by rw [hidx]; omega))
    (fun j s rest ⟨hp, hN, hL, hH⟩ => ⟨_, exec_of_answers (.ldw j (hidx j).symm (by simp [hp])),
      by constructor <;> simp, ⟨rfl, hN, hL, hH⟩, (readW_writeW j j _ s).trans (if_pos rfl),
      fun k hk => eq_value_of_write (value := fun j => block[j]) (readW_writeW j k _ s) hk⟩)
    (List.finRange 16)
  intro s rest hacc hhost hs
  obtain ⟨t, hrun, hacct, hhostt, ht, hall⟩ := hload s rest hacc hhost hs
  exact ⟨t, hrun, hacct, hhostt, ht, Vector.ext fun j hj => hall ⟨j, hj⟩ (List.mem_finRange _)⟩

/-- COMP leaves the compression of H and the block in H (R105). -/
theorem leads_comp (h : Vector Word 5) (block : Vector Word 16) :
    Leads [.comp] (fun s => OnRawPath n len h s ∧ s.W = block)
      (OnRawPath n len (compressFn h block)) := by
  refine leads_command rfl fun s rest ⟨⟨hp, hN, hL, hH⟩, hW⟩ => ?_
  refine ⟨_, exec_of_answers (.comp (by simp [hp])), by constructor <;> simp, ⟨by simp, ?_, ?_, ?_⟩⟩
  · simp [hN]
  · simp [hL]
  · simp [compress_H, hH, hW]

/-- The raw path over the first `q` blocks of a byte sequence (R106). -/
theorem leads_blocks (h : Vector Word 5) (bytes : List Byte) (q : Nat) :
    Leads ((List.range q).flatMap fun q => ldblk (packWords (blockOf bytes q)) ++ [.comp])
      (OnRawPath n len h) (OnRawPath n len (chain h bytes q)) := by
  induction q with
  | zero => exact leads_nil fun s hs => hs
  | succ q ih =>
    rw [List.range_succ, List.flatMap_append, List.flatMap_singleton]
    exact ih.append ((leads_ldblk n len _ _).append (leads_comp n len _ _))

/-- The raw path over the padded blocks of a message (R106). -/
theorem leads_rawCommands (m : List Byte) :
    Leads (rawCommands m) (OffMessage n len) (OnRawPath n len (digest m)) :=
  (leads_ldiv n len).append (leads_blocks n len iv (paddedMessage m) _)

end RawPath

/-! ### Both runs -/

/-- Taking a waiting response leaves PHASE, N and LEN as they are (R177). -/
theorem run_waitingSteps_offMessage {s u : State} {w : CmdWord} {rest : List HostAct} {n : Fin 64}
    {len : Len} (hhost : s.host = .command w :: rest) (hidle : idle s = true)
    (htaken : responsesTaken s = true) (hrun : run (waitingSteps s) s = .next u)
    (hs : OffMessage n len s) : OffMessage n len u := by
  cases hv : s.RSPV with
  | false =>
    simp only [waitingSteps, hv, Bool.false_eq_true, if_false, run] at hrun
    cases hrun
    exact hs
  | true =>
    have hready : s.rspReady = true := by simpa [responsesTaken, hv] using htaken
    rw [waitingSteps, hv, if_pos rfl, run_one,
      step_handOver s w rest hhost ((idle_iff s).mp hidle) hv hready] at hrun
    cases hrun
    exact hs

/-- Settles O24: both runs take a waiting response first; then the raw path chains the padded blocks from
IV, and R12's contract gives the digest path the same digest. -/
theorem rawPathEqualsDigestPath : Obligations.RawPathEqualsDigestPath := by
  intro m s hm hidle htaken hp
  obtain ⟨v, hwait, hacc, hhost, -, -⟩ :=
    run_waitingSteps (s := withCommands (rawCommands m) s) rfl hidle htaken
  have hoff : OffMessage s.N s.LEN v :=
    run_waitingSteps_offMessage (s := withCommands (rawCommands m) s) rfl hidle htaken hwait
      ⟨hp, rfl, rfl⟩
  obtain ⟨t, hraw, -, -, hphase, hN, hL, hH⟩ :=
    leads_rawCommands s.N s.LEN m v s.host hacc hhost hoff
  obtain ⟨u, hdigest, hphase', hH', hlen, -⟩ := digestContract m s hm hidle htaken
  have hcount : (digestCommands m).length = m.length + 2 := by simp [digestCommands, puts]
  exact ⟨t, u, (run_add _ _ _ v hwait).trans hraw, hcount ▸ hdigest, hH.trans hH'.symm, hphase, hL, hN,
    hphase', hlen⟩

end Sys2Proof.Machine
end

section
/-! The bytes of the controller's blocks (R113, R117 to R120): the words of `Pack`, the length field, and
every byte of the padded blocks; and from these what FINAL depends on (R124). -/

namespace Sys2Proof.Machine

/-! ### Pack -/

theorem packWords_getElem (M : Vector Byte 64) (i : Nat) (hi : i < 16) :
    (packWords M)[i] = M[4 * i] ++ M[4 * i + 1] ++ M[4 * i + 2] ++ M[4 * i + 3] := by
  simp [packWords]

/-- Settles O25: a packed word is its four bytes concatenated, the first one uppermost. -/
theorem packBigEndian : Obligations.PackBigEndian := by
  refine ⟨fun M i => ?word, fun M h0 h1 h2 h3 => ?sample, fun M s => rfl⟩
  case word =>
    rw [Fin.getElem_fin, packWords_getElem, toNat_append_eq_add, toNat_append_eq_add,
      toNat_append_eq_add]
    omega
  case sample =>
    rw [packWords_getElem]
    simp only [Nat.mul_zero, Nat.zero_add, h0, h1, h2, h3]
    decide

/-! ### The length field -/

theorem bitLength_toNat (len : Len) : (bitLength len).toNat = len.toNat * 8 % 2 ^ 64 :=
  BitVec.toNat_mul len 8

/-- The bit length is the low 61 bits of LEN above three zeros (R118). -/
theorem bitLength_eq_append (len : Len) : bitLength len = len.extractLsb' 0 61 ++ (0 : BitVec 3) := by
  apply BitVec.eq_of_toNat_eq
  rw [bitLength_toNat, toNat_append_eq_add, extractLsb'_toNat_eq_div]
  simp only [BitVec.ofNat_eq_ofNat, BitVec.toNat_ofNat]
  omega

theorem lenField_getElem (len : Len) (i : Nat) (hi : i < 8) :
    (lenField len)[i] = (bitLength len).extractLsb' (56 - 8 * i) 8 := by
  simp [lenField]

/-- Settles O26: the bit length as a number and by its bits, and each byte a slice of it. -/
theorem lengthFieldBytes : Obligations.LengthFieldBytes := by
  refine ⟨fun len => ⟨bitLength_toNat len, bitLength_eq_append len, fun i => ?slice⟩,
    fun len i => ?byte, by decide⟩
  case slice => exact lenField_getElem len i i.isLt
  case byte =>
    rw [Fin.getElem_fin, lenField_getElem, extractLsb'_toNat_eq_div, bitLength_toNat]

/-! ### The padded blocks -/

section PaddedBlocks
variable (buf : Vector Byte 64) (n : Nat) (lf : Vector Byte 8) (j : Nat) (hj : j < 64)

theorem padOne_getElem :
    (padOne buf n lf)[j] =
      if j < n then buf[j] else if j = n then 0x80 else if h : 56 ≤ j then lf[j - 56] else 0 := by
  simp [padOne]

theorem padFirst_getElem :
    (padFirst buf n)[j] = if j < n then buf[j] else if j = n then 0x80 else 0 := by
  simp [padFirst]

theorem padSecond_getElem : (padSecond lf)[j] = if h : 56 ≤ j then lf[j - 56] else 0 := by
  simp [padSecond]

end PaddedBlocks

section ValidTail
variable {buf buf' : Vector Byte 64} {n : Nat} (h : ∀ j : Fin 64, j.val < n → buf[j] = buf'[j])
include h

/-- No byte of BUF at index `n` or above enters the one final block (R119). -/
theorem padOne_congr (lf : Vector Byte 8) : padOne buf n lf = padOne buf' n lf := by
  ext1 j hj
  rw [padOne_getElem, padOne_getElem]
  split
  next hlt => exact h ⟨j, hj⟩ hlt
  next => rfl

/-- Nor the first of two (R120). -/
theorem padFirst_congr : padFirst buf n = padFirst buf' n := by
  ext1 j hj
  rw [padFirst_getElem, padFirst_getElem]
  split
  next hlt => exact h ⟨j, hj⟩ hlt
  next => rfl

end ValidTail

/-- Settles O27: the three blocks read off byte by byte, and the order of FINAL's two compressions. -/
theorem paddedBlockBytes : Obligations.PaddedBlockBytes := by
  refine ⟨fun buf n lf h55 => ?one, fun buf n h56 => ?first, fun lf => ?second,
    fun buf buf' n lf h => ⟨padOne_congr h lf, padFirst_congr h⟩,
    fun s h56 => finalBlocks_two s (by omega)⟩
  case one =>
    refine ⟨fun j h => ?_, ?_, fun j h => ?_, fun i => ?_⟩ <;> rw [padOne_getElem]
    · rw [if_pos h]
    · rw [if_neg (Nat.lt_irrefl n), if_pos rfl]
    · rw [if_neg (by omega), if_neg (by omega), dif_neg (by omega)]
    · rw [if_neg (by omega), if_neg (by omega), dif_pos (by omega)]
      simp
  case first =>
    refine ⟨fun j h => ?_, ?_, fun j h => ?_⟩ <;> rw [padFirst_getElem]
    · rw [if_pos h]
    · rw [if_neg (Nat.lt_irrefl n), if_pos rfl]
    · rw [if_neg (by omega), if_neg (by omega)]
  case second =>
    refine ⟨fun j h => ?_, fun i => ?_⟩ <;> rw [padSecond_getElem]
    · rw [dif_neg (by omega)]
    · rw [dif_pos (by omega)]
      simp

/-- Settles O32: the blocks of the padded message, from a buffer that holds the tail. -/
theorem paddedMessageBlocks : Obligations.PaddedMessageBlocks := by
  intro m buf hbuf
  have htail : HoldsTail m buf := fun j hj hlt => hbuf ⟨j, hj⟩ hlt
  exact ⟨blockOf_paddedMessage m,
    fun h => ⟨paddedMessage_length_one m h, blockOf_paddedMessage_padOne htail h⟩,
    fun h => ⟨paddedMessage_length_two m h, blockOf_paddedMessage_padFirst htail h,
      blockOf_paddedMessage_padSecond h⟩⟩

/-! ### What FINAL depends on -/

/-- Two states agree on all that a compression leaves: H and the pipeline (R99). -/
def SameCompression (s u : State) : Prop := u.H = s.H ∧ SamePipeline s u

/-- A compression depends on H and W alone (R99). -/
theorem compress_sameCompression {s u : State} (hH : u.H = s.H) (hW : u.W = s.W) :
    SameCompression (compress s) (compress u) := by
  rw [compress_eq_of_same s u hH hW]
  exact ⟨rfl, rfl, rfl, rfl, rfl, rfl, rfl, rfl⟩

theorem compress_packInto_sameCompression (M : Vector Byte 64) {s u : State} (hH : u.H = s.H) :
    SameCompression (compress (packInto M s)) (compress (packInto M u)) :=
  compress_sameCompression (by rw [packInto_H, packInto_H, hH]) (by rw [packInto_W, packInto_W])

/-- The final blocks depend on H, N, LEN and the valid tail alone (R124). -/
theorem finalBlocks_sameCompression {s u : State} (hH : u.H = s.H) (hN : u.N = s.N)
    (hLEN : u.LEN = s.LEN) (hbuf : ∀ j : Fin 64, j.val < s.N.val → u.BUF[j] = s.BUF[j]) :
    SameCompression (finalBlocks s) (finalBlocks u) := by
  by_cases hshort : s.N.val ≤ 55
  · rw [finalBlocks_one s hshort, finalBlocks_one u (hN ▸ hshort), hN, hLEN, padOne_congr hbuf]
    exact compress_packInto_sameCompression _ hH
  · rw [finalBlocks_two s hshort, finalBlocks_two u (hN ▸ hshort), hN, hLEN, padFirst_congr hbuf]
    obtain ⟨hH', -⟩ := compress_packInto_sameCompression (padFirst s.BUF s.N.val) hH
    exact compress_packInto_sameCompression _ hH'

/-- Settles O35: in ABSORB FINAL leaves what its final blocks leave. -/
theorem staleBytesNeverLeak : Obligations.StaleBytesNeverLeak := by
  intro s u s' u' hs hu hH hN hLEN hbuf hexec hexec'
  obtain ⟨hraw, -⟩ | ⟨-, rfl⟩ := execFinal_cases hexec
  · exact absurd hs hraw
  obtain ⟨hraw, -⟩ | ⟨-, rfl⟩ := execFinal_cases hexec'
  · exact absurd hu hraw
  obtain ⟨hH', hW', hworking⟩ := finalBlocks_sameCompression hH.symm hN.symm hLEN.symm
    fun j hj => (hbuf j hj).symm
  exact ⟨hH'.symm, hW'.symm, hworking⟩

end Sys2Proof.Machine
end

section
/-! The commands INIT, PUTB and FINAL (R112, R114, R116): what each answers in every state, and from it
the effect of every word with its opcode. -/

namespace Sys2Proof.Machine

/-! ### The words of format B -/

/-- The immediate of format B is the low byte of the data field (R69). -/
theorem setWidth_eq_imm8Of (data : Word) : data.setWidth 8 = imm8Of data :=
  BitVec.setWidth_eq_extractLsb' (by decide)

/-- A byte immediate is the byte, zero-extended (R64). -/
theorem dataOfByte_eq_setWidth (b : Byte) : dataOfByte b = b.setWidth 32 := by
  apply BitVec.eq_of_toNat_eq
  rw [dataOfByte, toNat_append_eq_add]
  simp only [BitVec.ofNat_eq_ofNat, BitVec.toNat_ofNat, BitVec.toNat_setWidth]
  omega

/-- The words of a format-B command (R64). -/
theorem wordEffect_of_decodeB {op : Byte} {i : Byte → Instr} {f : Byte → Word → State → State}
    (hdec : ∀ idx data, decodeFields op idx data = decodeB idx data i)
    (hexec : ∀ idx data s, exec (i (imm8Of data)) s = .next (f idx data s)) :
    WordEffect op fun idx data s =>
      if idx ≠ 0 ∨ data.extractLsb' 8 24 ≠ 0 then raiseFault .illegalField s else f idx data s :=
  wordEffect_of_fields
    (fun idx data h => (hdec idx data).trans (if_neg (not_and_or.mpr h)))
    (fun idx data h => (hdec idx data).trans (if_pos (by simpa using h)))
    fun idx data s _ => hexec idx data s

/-! ### INIT, PUTB and FINAL -/

/-- INIT (R112). -/
theorem exec_init (s : State) :
    exec .init s = .next
      { s with
        H := #v[0x67452301, 0xEFCDAB89, 0x98BADCFE, 0x10325476, 0xC3D2E1F0]
        LEN := 0, N := 0, PHASE := .absorb } := rfl

/-- A byte counted and the tail count written (R114). -/
theorem setTail_countByte (n : Fin 64) (s : State) :
    setTail n (countByte s) = { s with LEN := s.LEN + 1, N := n } := (rfl)

/-- What FINAL writes after its compressions (R116). -/
theorem enterPhase_setTail (p : Phase) (n : Fin 64) (s : State) :
    enterPhase p (setTail n s) = { s with N := n, PHASE := p } := (rfl)

theorem packInto_eq (M : Vector Byte 64) (s : State) : packInto M s = { s with W := packWords M } :=
  (rfl)

/-- PUTB in ABSORB with the last byte of a block (R114). -/
theorem exec_putb_full (b : Byte) {s : State} (hp : s.PHASE = .absorb) (hN : s.N = 63) :
    exec (.putb b) s = .next
      { compress { s with BUF := s.BUF.set s.N b, W := packWords (s.BUF.set s.N b) } with
        LEN := s.LEN + 1, N := 0 } := by
  have hblock : packInto (storeByte b s).BUF (storeByte b s)
      = { s with BUF := s.BUF.set s.N b, W := packWords (s.BUF.set s.N b) } := (rfl)
  rw [exec_of_answers (.putbFull hp hN), setTail_countByte, hblock, compress_LEN]

/-- PUTB in ABSORB with another byte (R114). -/
theorem exec_putb_partial (b : Byte) {s : State} (hp : s.PHASE = .absorb) (hN : s.N ≠ 63) :
    exec (.putb b) s =
      .next { s with BUF := s.BUF.set s.N b, LEN := s.LEN + 1, N := s.N + 1 } :=
  exec_of_answers (.putbShort hp hN)

/-- FINAL in ABSORB with a tail of at most 55 bytes (R116, R119). -/
theorem exec_final_one {s : State} (hp : s.PHASE = .absorb) (hN : s.N.val ≤ 55) :
    exec .final s = .next
      { compress { s with W := packWords (padOne s.BUF s.N.val (lenField s.LEN)) } with
        N := 0, PHASE := .done } := by
  rw [exec_of_answers (.final hp), finalBlocks_one s hN, enterPhase_setTail, packInto_eq]

/-- FINAL in ABSORB with a longer tail (R116, R120). -/
theorem exec_final_two {s : State} (hp : s.PHASE = .absorb) (hN : ¬ s.N.val ≤ 55) :
    exec .final s = .next
      { compress { compress { s with W := packWords (padFirst s.BUF s.N.val) } with
                   W := packWords (padSecond (lenField s.LEN)) } with
        N := 0, PHASE := .done } := by
  rw [exec_of_answers (.final hp), finalBlocks_two s hN, enterPhase_setTail, packInto_eq,
    packInto_eq]

/-- Settles O28: format Z over what INIT answers. -/
theorem initStartsMessage : Obligations.InitStartsMessage :=
  ⟨by decide, wordEffect_of_decodeZ (fun _ _ => rfl) exec_init, exec_init⟩

/-- Settles O29: format B over what PUTB answers in each phase and with each tail count. -/
theorem putbAbsorbsByte : Obligations.PutbAbsorbsByte := by
  refine ⟨fun imm8 => ?word, ?effect, fun imm8 s hp hN => ?full,
    fun imm8 s hp hN => exec_putb_partial imm8 hp hN⟩
  case word => rw [encode, dataOfByte_eq_setWidth]
  case effect =>
    refine wordEffect_of_decodeB (i := .putb) (fun _ _ => rfl) fun _ data s => ?_
    rw [setWidth_eq_imm8Of]
    split_ifs with hp hN
    · exact exec_barred rfl hp
    · exact exec_putb_full _ (not_not.mp hp) hN
    · exact exec_putb_partial _ (not_not.mp hp) hN
  case full =>
    have hset : s.BUF.set s.N imm8 = s.BUF.set 63 imm8 := by simp only [hN]; rfl
    rw [exec_putb_full imm8 hp hN, hset]

/-- Settles O30: format Z over what FINAL answers in each phase and with each tail count. -/
theorem finalPadsAndFinishes : Obligations.FinalPadsAndFinishes := by
  refine ⟨by decide, wordEffect_of_decodeZ (fun _ _ => rfl) fun s => ?effect,
    fun s hp hN => exec_final_one hp hN, fun s hp hN => exec_final_two hp (by omega)⟩
  case effect =>
    split_ifs with hp hN
    · exact exec_barred rfl hp
    · exact exec_final_one (not_not.mp hp) hN
    · exact exec_final_two (not_not.mp hp) hN

end Sys2Proof.Machine
end

section
/-! The absorb invariant (R115) over the words of a message in progress: every word but INIT and FINAL
keeps it, byte appended or not, and so does a step that takes no word; then the run of INIT and any list of
such words, with the hand-overs of their responses. -/

namespace Sys2Proof.Machine

open Sys2Proof.Laws

/-! ### What the message in progress rests on -/

/-- From `s` to `t` the elements that the message in progress is held in are kept (R115). -/
structure KeepsMessage (s t : State) : Prop where
  PHASE : t.PHASE = s.PHASE
  LEN : t.LEN = s.LEN
  N : t.N = s.N
  BUF : t.BUF = s.BUF
  H : t.H = s.H

theorem Absorbing.of_keeps {m : List Byte} {s t : State} (hm : Absorbing m s) (h : KeepsMessage s t) :
    Absorbing m t := by
  obtain ⟨hPHASE, hLEN, hN, hBUF, hH⟩ := h
  simpa only [Absorbing, hPHASE, hLEN, hN, hBUF, hH] using hm

/-- In ABSORB every command but INIT, PUTB and FINAL faults, responds or does nothing (R22). -/
theorem exec_keepsMessage {i : Instr} {s t : State} (hp : s.PHASE = .absorb)
    (hexec : exec i s = .next t) (hinit : i ≠ .init) (hfinal : i ≠ .final) (hputb : ∀ b, i ≠ .putb b) :
    KeepsMessage s t := by
  cases exec_answers hexec with
  | badField => constructor <;> simp
  | barred => constructor <;> simp
  | nop => constructor <;> rfl
  | read => constructor <;> simp
  | init => exact absurd rfl hinit
  | putbFull => exact absurd rfl (hputb _)
  | putbShort => exact absurd rfl (hputb _)
  | final => exact absurd rfl hfinal
  | ldh _ _ hraw => exact absurd hp hraw
  | ldw _ _ hraw => exact absurd hp hraw
  | comp hraw => exact absurd hp hraw

/-! ### One word -/

theorem messageByte_eq_some_iff {w : CmdWord} {b : Byte} :
    messageByte w = some b ↔ decode w = .ok (.putb b) := by
  unfold messageByte
  split
  next c h => simp [h]
  next hnot => exact iff_of_false nofun (hnot b)

/-- The message of one word. -/
theorem absorbed_singleton (w : CmdWord) : absorbed [w] = (messageByte w).toList := by
  rw [absorbed_cons, absorbed_nil, List.append_nil]

theorem execWord_of_decode_ok {w : CmdWord} {i : Instr} (hdec : decode w = .ok i) (s : State) :
    execWord w s = exec i s := by
  rw [execWord, hdec]

/-- A word between INIT and FINAL appends its byte, if it brings one (R114, R115). -/
theorem Absorbing.of_execWord {m : List Byte} {s t : State} {w : CmdWord} (hm : Absorbing m s)
    (hin : insideMessage w) (hexec : execWord w s = .next t) : Absorbing (m ++ absorbed [w]) t := by
  rw [absorbed_singleton]
  cases hb : messageByte w with
  | some b =>
    obtain ⟨u, hu, hmu, -⟩ := hm.exec_putb b
    rw [execWord_of_decode_ok (messageByte_eq_some_iff.mp hb), hu] at hexec
    cases hexec
    exact hmu
  | none =>
    have hputb : ∀ b, decode w ≠ .ok (.putb b) := fun b h => by
      simp [messageByte_eq_some_iff.mpr h] at hb
    rw [Option.toList_none, List.append_nil]
    obtain ⟨code, -, rfl⟩ | ⟨i, hdec, hexec⟩ := execWord_cases hexec
    · exact hm.of_keeps (by constructor <;> simp)
    · obtain ⟨hinit, hfinal⟩ := hin
      rw [hdec] at hinit hfinal
      exact hm.of_keeps (exec_keepsMessage hm.1 hexec (fun h => hinit (congrArg _ h))
        (fun h => hfinal (congrArg _ h)) fun b h => hputb b (h ▸ hdec))

/-- A word never stops the engine (R154). -/
theorem execWord_total (w : CmdWord) (s : State) : ∃ t, execWord w s = .next t := by
  unfold execWord
  split
  · exact ⟨_, rfl⟩
  · exact exec_total _ s

/-- No word writes the host's side. -/
theorem execWord_host {w : CmdWord} {s t : State} (h : execWord w s = .next t) :
    t.host = s.host ∧ t.rspReady = s.rspReady := by
  obtain ⟨code, -, rfl⟩ | ⟨i, -, hexec⟩ := execWord_cases h
  · simp
  · obtain ⟨hhost, hready, -⟩ := exec_host hexec
    exact ⟨hhost, hready⟩

/-- What pushes a response is a read (R28). -/
theorem isRead_of_responseOf {i : Instr} {s : State} {v : Word} (hv : responseOf i s = some v) :
    isRead i = true := by
  cases i with
  | nop | init | putb _ | final | ldh _ _ | ldw _ _ | comp => cases hv
  | _ => rfl

/-- A read is allowed in every phase (R49). -/
theorem isRead_of_phaseBad {i : Instr} {p : Phase} (hp : phaseBad (EncodedFields.opcode i) p) :
    isRead i = false := by
  cases i with
  | rdh _ | rdw _ | rdb _ | rdl _ | rdst => exact hp.elim
  | _ => rfl

/-- A response waits after a word exactly when one waited before or the word is a read that does not
fault (R28). -/
theorem execWord_RSPV {w : CmdWord} {s t : State} (h : execWord w s = .next t) :
    t.RSPV = (s.RSPV || responds w) := by
  obtain ⟨code, hdec, rfl⟩ | ⟨i, hdec, hexec⟩ := execWord_cases h
  · simp [responds, hdec]
  rw [responds, hdec]
  cases exec_answers hexec with
  | badField hbad => exact absurd (decode_sound hdec).1 hbad
  | barred _ hp => simp [isRead_of_phaseBad hp]
  | read hv => simp [isRead_of_responseOf hv]
  | _ => simp [isRead]

/-! ### One step -/

/-- An idle engine that is not reset and takes no word keeps the message: it waits, hands over a response
or follows a change of `rsp_ready` (R177). -/
theorem step_keepsMessage {s : State} (hidle : idle s = true) (hreset : ∀ rest, s.host ≠ .reset :: rest)
    (hword : ∀ w rest, ¬ Presents s w rest) : ∃ t, step s = .next t ∧ KeepsMessage s t := by
  have hwait (b : Bool) : KeepsMessage s (if b then handOver s else s) := by
    cases b <;> constructor <;> rfl
  unfold step
  split
  next rest hhost => exact absurd hhost (hreset rest)
  next b rest _ => exact ⟨_, rfl, by constructor <;> rfl⟩
  next => rw [if_pos hidle]; exact ⟨_, rfl, hwait _⟩
  next w rest hhost =>
    have hrsp : s.RSPV = true := by
      by_contra hempty
      exact hword w rest ⟨by simp [canAccept, hidle, hempty], hhost⟩
    rw [if_pos hidle, if_pos hrsp]
    exact ⟨_, rfl, hwait _⟩

/-! ### The run of a message's words -/

/-- The engine with a waiting response taken by the host (R177). -/
def emptied (s : State) : State := if s.RSPV then handOver s else s

@[simp] theorem emptied_RSPV (s : State) : (emptied s).RSPV = false := by
  unfold emptied; split <;> simp_all
@[simp] theorem emptied_INFLIGHT (s : State) : (emptied s).INFLIGHT = s.INFLIGHT := by
  unfold emptied; split <;> rfl
@[simp] theorem emptied_host (s : State) : (emptied s).host = s.host := by
  unfold emptied; split <;> rfl
@[simp] theorem emptied_rspReady (s : State) : (emptied s).rspReady = s.rspReady := by
  unfold emptied; split <;> rfl

theorem takeOff_emptied_keepsMessage (rest : List HostAct) (s : State) :
    KeepsMessage s (takeOff rest (emptied s)) := by
  unfold emptied
  split <;> constructor <;> rfl

/-- Before a word a waiting response is taken (R177). -/
theorem run_waitingSteps_eq {s : State} {w : CmdWord} {rest : List HostAct}
    (hhost : s.host = .command w :: rest) (hidle : idle s = true) (htaken : responsesTaken s = true) :
    run (waitingSteps s) s = .next (emptied s) := by
  cases hv : s.RSPV with
  | false => simp [waitingSteps, emptied, hv, run]
  | true =>
    have hready : s.rspReady = true := by simpa [responsesTaken, hv] using htaken
    have hhand := step_handOver s w rest hhost ((idle_iff s).mp hidle) hv hready
    simp only [waitingSteps, emptied, hv, if_true, run_one, hhand]

/-- The host's next word: a waiting response is taken, then the word performed. -/
theorem run_word {s : State} {w : CmdWord} {rest : List HostAct} (hhost : s.host = .command w :: rest)
    (hidle : idle s = true) (htaken : responsesTaken s = true) :
    ∃ t, run (waitingSteps s + 1) s = .next t ∧ execWord w (takeOff rest (emptied s)) = .next t ∧
      idle t = true ∧ t.host = rest ∧ t.rspReady = s.rspReady ∧ t.RSPV = responds w := by
  obtain ⟨t, ht⟩ := execWord_total w (takeOff rest (emptied s))
  have hI := (idle_iff s).mp hidle
  have hpres : Presents (emptied s) w rest := ⟨by simp [canAccept_iff, hI], by simp [hhost]⟩
  obtain ⟨hhost', hready⟩ := execWord_host ht
  refine ⟨t, ?run, ht, ?idle, by simpa using hhost', by simpa using hready,
    by simpa using execWord_RSPV ht⟩
  case run =>
    rw [run_add _ _ _ _ (run_waitingSteps_eq hhost hidle htaken), run_one,
      step_presents _ w rest hpres, ht]
  case idle => simpa [idle_iff, hI] using execWord_INFLIGHT ht

/-- After a word one response waits when it is a read that does not fault (R28). -/
theorem waitingSteps_of_responds {w : CmdWord} {t : State} (h : t.RSPV = responds w) :
    waitingSteps t = if responds w then 1 else 0 := by
  rw [waitingSteps, h]

/-- A non-empty list of words inside the message: each word's response is taken before the next word, and
the last one's is left waiting. -/
theorem run_insideMessage (w : CmdWord) (ws : List CmdWord) {m : List Byte} {s : State}
    {rest : List HostAct} (hm : Absorbing m s) (hidle : idle s = true)
    (hhost : s.host = (w :: ws).map .command ++ rest) (hin : ∀ v ∈ w :: ws, insideMessage v)
    (htaken : responsesTaken s = true)
    (hresp : s.rspReady = true ∨ ∀ v ∈ (w :: ws).dropLast, responds v = false) :
    ∃ t, run (waitingSteps s + (w :: ws).length + responseCount (w :: ws).dropLast) s = .next t ∧
      Absorbing (m ++ absorbed (w :: ws)) t := by
  induction ws generalizing w m s with
  | nil =>
    obtain ⟨t, hrun, hexec, -⟩ := run_word hhost hidle htaken
    exact ⟨t, hrun, (hm.of_keeps (takeOff_emptied_keepsMessage _ s)).of_execWord (hin w (by simp)) hexec⟩
  | cons w' ws ih =>
    obtain ⟨u, hrun, hexec, hidle', hhost', hready, hrsp⟩ := run_word hhost hidle htaken
    have hmu := (hm.of_keeps (takeOff_emptied_keepsMessage _ s)).of_execWord (hin w (by simp)) hexec
    rw [List.dropLast_cons_cons, List.forall_mem_cons] at hresp
    have htaken' : responsesTaken u = true := by
      rw [responsesTaken, hready, hrsp]
      obtain h | ⟨h, -⟩ := hresp <;> simp [h]
    obtain ⟨t, hrun', ht⟩ := ih w' hmu hidle' hhost' (fun v hv => hin v (List.mem_cons_of_mem w hv))
      htaken' (hready ▸ hresp.imp_right And.right)
    refine ⟨t, ?run, ?message⟩
    case run =>
      rw [← hrun', ← run_add _ _ _ u hrun, waitingSteps_of_responds hrsp, List.dropLast_cons_cons,
        responseCount_cons, List.length_cons]
      congr 1
      omega
    case message => rwa [List.append_assoc, ← absorbed_append] at ht

/-- INIT and any words inside the message (R115). -/
theorem run_init_insideMessage (ws : List CmdWord) {s : State} {rest : List HostAct}
    (hidle : idle s = true) (hhost : s.host = (encode .init :: ws).map .command ++ rest)
    (hin : ∀ w ∈ ws, insideMessage w) (htaken : responsesTaken s = true)
    (hresp : s.rspReady = true ∨ ∀ w ∈ ws.dropLast, responds w = false) :
    ∃ t, run (waitingSteps s + (ws.length + 1) + responseCount ws.dropLast) s = .next t ∧
      Absorbing (absorbed ws) t := by
  obtain ⟨u, hrun, hexec, hidle', hhost', hready, hrsp⟩ := run_word hhost hidle htaken
  have hmu : Absorbing [] u := by
    obtain ⟨u', hinit, hmu, -⟩ := exec_init_absorbing (takeOff (ws.map .command ++ rest) (emptied s))
    rw [execWord_of_decode_ok decode_encode_init] at hexec
    cases hinit.symm.trans hexec
    exact hmu
  have hempty : u.RSPV = false := hrsp.trans (by decide)
  cases ws with
  | nil => exact ⟨u, hrun, hmu⟩
  | cons w ws =>
    obtain ⟨t, hrun', ht⟩ := run_insideMessage w ws hmu hidle' hhost' hin
      (by simp [responsesTaken, hempty]) (hready ▸ hresp)
    refine ⟨t, ?_, ht⟩
    have hwait : waitingSteps u = 0 := by simp [waitingSteps, hempty]
    rw [← hrun', ← run_add _ _ _ u hrun, hwait]
    congr 1
    omega

/-- Settles O31: the commands and the words one by one, then the run of the whole list. -/
theorem absorbInvariant : Obligations.AbsorbInvariant := by
  refine ⟨fun s => ?init, fun m b s hm => ?putb, fun m s w rest hm hpres hin => ?word,
    fun m s hm hidle hreset hword => ?wait, fun ws s hidle hin hready => ?run⟩
  case init =>
    obtain ⟨t, hexec, ht, -⟩ := exec_init_absorbing s
    exact ⟨t, hexec, ht⟩
  case putb =>
    obtain ⟨t, hexec, ht, -⟩ := hm.exec_putb b
    exact ⟨t, hexec, ht⟩
  case word =>
    have hm' : Absorbing m (takeOff rest s) := hm
    obtain ⟨t, ht⟩ := execWord_total w (takeOff rest s)
    exact ⟨t, (step_presents s w rest hpres).trans ht, hm'.of_execWord hin ht⟩
  case wait =>
    obtain ⟨t, hstep, hkeep⟩ := step_keepsMessage hidle hreset hword
    exact ⟨t, hstep, hm.of_keeps hkeep⟩
  case run =>
    have htaken : responsesTaken s = true := by
      obtain h | ⟨h, -⟩ := hready <;> simp [responsesTaken, h]
    exact run_init_insideMessage (s := takeOff ((encode .init :: ws).map .command ++ s.host) s) ws hidle
      rfl hin htaken (hready.imp_right And.right)

end Sys2Proof.Machine
end

section
/-! The digest as bytes and as text: `digest_o` word by word and byte by byte (R134, R138), and `Hex40` as
the two-digit form of the digest bytes (R141). -/

namespace Sys2Proof.Machine

/-! ### The digest bytes -/

/-- A field inside word `q` of `digest_o`, H[0] on top (R138). -/
theorem digestO_extractLsb' (s : State) (q : Fin 5) {start len : Nat} (h : start + len ≤ 32) :
    (digestO s).extractLsb' (128 - 32 * q.val + start) len = s.H[q].extractLsb' start len := by
  match q with
  | 0 | 1 | 2 | 3 | 4 =>
    simp (disch := omega) only [digestO, BitVec.extractLsb'_append_eq_of_le,
      BitVec.extractLsb'_append_eq_of_add_le, Nat.sub_sub]
    simp

/-- Settles O39: a digest byte is a field of its word, and that word a field of `digest_o`. -/
theorem digestBytesOfOutput : Obligations.DigestBytesOfOutput := by
  refine fun s => ⟨fun j => extractLsb'_toNat_eq_div _ 8 _, rfl, fun j => ?byte⟩
  case byte =>
    have hstart : 152 - 8 * j.val = 128 - 32 * (j.val / 4) + (24 - 8 * (j.val % 4)) := by omega
    rw [hstart]
    exact digestO_extractLsb' s ⟨j.val / 4, by omega⟩ (by omega)

/-! ### Hexadecimal digits -/

theorem hexDigit_mem (v : Nat) : hexDigit v ∈ hexDigits := by
  have hv : v % 16 < hexDigits.length := Nat.mod_lt v (by decide)
  rw [hexDigit, List.getD_eq_getElem _ _ hv]
  exact List.getElem_mem hv

/-- A digit shows the low four bits of its number. -/
theorem hexDigit_congr {u v : Nat} (h : u % 16 = v % 16) : hexDigit u = hexDigit v := by
  rw [hexDigit, hexDigit, h]

theorem mem_hexDigits_of_mem_hexWord {w : Word} {c : Char} (hc : c ∈ hexWord w) : c ∈ hexDigits := by
  obtain ⟨k, -, rfl⟩ := List.mem_map.mp hc
  exact hexDigit_mem _

/-- The two digits of a byte of a word, as digits of the word. -/
theorem hexByte_extractLsb' (w : Word) (n : Nat) :
    hexByte (w.extractLsb' n 8) = [hexDigit (w.toNat / 2 ^ (n + 4)), hexDigit (w.toNat / 2 ^ n)] := by
  have hhigh : w.toNat / 2 ^ (n + 4) = w.toNat / 2 ^ n / 16 := by
    rw [Nat.pow_add, Nat.div_div_eq_div_mul]
  rw [hexByte, extractLsb'_toNat_eq_div, hhigh]
  exact congrArg₂ (fun c d => [c, d]) (hexDigit_congr (by omega)) (hexDigit_congr (by omega))

/-- The eight digits of a word are those of its four bytes, most significant first (R141). -/
theorem hexWord_eq_hexBytes (w : Word) :
    hexWord w = (List.finRange 4).flatMap fun r => hexByte (w.extractLsb' (24 - 8 * r.val) 8) := by
  simp only [hexByte_extractLsb']
  rfl

/-! ### The rendering -/

/-- Byte `4 * q + r` of the digest is byte `r` of word `q` (R134). -/
def byteIndex (q : Fin 5) (r : Fin 4) : Fin 20 := ⟨4 * q.val + r.val, by omega⟩

@[simp] theorem byteIndex_val (q : Fin 5) (r : Fin 4) : (byteIndex q r).val = 4 * q.val + r.val := rfl

theorem digestByte_byteIndex (s : State) (q : Fin 5) (r : Fin 4) :
    digestByte s (byteIndex q r) = (readH s q).extractLsb' (24 - 8 * r.val) 8 := by
  have hq : (byteIndex q r).val / 4 = q.val := by rw [byteIndex_val]; omega
  have hr : (byteIndex q r).val % 4 = r.val := by rw [byteIndex_val]; omega
  simp only [digestByte, hq, hr]
  rfl

theorem finRange_eq_byteIndices :
    List.finRange 20 = (List.finRange 5).flatMap fun q => (List.finRange 4).map (byteIndex q) := by
  decide

theorem toList_eq_map_readH (s : State) : s.H.toList = (List.finRange 5).map (readH s) := by
  apply List.ext_getElem <;> simp [readH]

/-- `Hex40` is the two-digit form of the digest bytes in order (R141). -/
theorem hex40_eq_hexBytes (s : State) :
    hex40 s.H = (List.finRange 20).flatMap fun j => hexByte (digestByte s j) := by
  rw [hex40, toList_eq_map_readH, finRange_eq_byteIndices]
  simp only [List.flatMap_map, List.flatMap_assoc, hexWord_eq_hexBytes, digestByte_byteIndex]

/-- Settles O46: forty digits as five words of eight, and the bytes of each word in order. -/
theorem hexRendering : Obligations.HexRendering := by
  refine fun s => ⟨?length, fun c hc => ?digit, hex40_eq_hexBytes s, by decide, by decide⟩
  case length => simp [hex40, hexWord, List.length_flatMap]
  case digit =>
    obtain ⟨w, -, hw⟩ := List.mem_flatMap.mp hc
    exact mem_hexDigits_of_mem_hexWord hw

end Sys2Proof.Machine
end

section
/-! The digest while PHASE stays DONE (R140): in DONE a command does nothing, responds, faults or leaves
DONE, and of the commands in flight only COMP is coherent there, which ends in RAW. -/

namespace Sys2Proof.Machine

/-! ### Commands in DONE -/

theorem ne_absorb_of_done {s : State} (hp : s.PHASE = .done) : s.PHASE ≠ .absorb := by
  rw [hp]
  nofun

/-- What a command does in DONE (R22). -/
theorem exec_in_done {i : Instr} {s t : State} (hp : s.PHASE = .done) (hexec : exec i s = .next t) :
    (i = .nop ∧ t = s) ∨ (isRead i = true ∧ ∃ v, t = rspPush v s) ∨ (∃ code, t = raiseFault code s) ∨
      t.PHASE ≠ .done := by
  cases exec_answers hexec with
  | badField | barred => exact .inr (.inr (.inl ⟨_, rfl⟩))
  | nop => exact .inl ⟨rfl, rfl⟩
  | read hv => exact .inr (.inl ⟨isRead_of_responseOf hv, _, rfl⟩)
  | init | ldh | ldw | comp => exact .inr (.inr (.inr (by simp)))
  | putbFull habs | putbShort habs | final habs => exact absurd habs (ne_absorb_of_done hp)

/-! ### The digest held -/

/-- From a state in DONE with chaining state `h`: DONE has not been left and H is still `h`, or DONE has
been left by a command that has completed. -/
def DigestHeld (h : Vector Word 5) (t : State) : Prop :=
  (t.PHASE = .done ∧ t.H = h) ∨ (t.PHASE ≠ .done ∧ t.INFLIGHT = .idle)

theorem DigestHeld.H_eq {h : Vector Word 5} {t : State} (ht : DigestHeld h t) (hp : t.PHASE = .done) :
    t.H = h := by
  obtain ⟨-, hH⟩ | ⟨hleft, -⟩ := ht
  · exact hH
  · exact absurd hp hleft

section InDone
variable {s t : State} (hp : s.PHASE = .done)
include hp

/-- What keeps PHASE and H holds the digest. -/
theorem digestHeld_of_same (hPHASE : t.PHASE = s.PHASE := by simp) (hH : t.H = s.H := by simp) :
    DigestHeld s.H t :=
  .inl ⟨hPHASE.trans hp, hH⟩

/-- A command performed with nothing in flight holds the digest. -/
theorem exec_digestHeld {i : Instr} (hI : s.INFLIGHT = .idle) (hexec : exec i s = .next t) :
    DigestHeld s.H t := by
  obtain ⟨-, rfl⟩ | ⟨-, v, rfl⟩ | ⟨code, rfl⟩ | hleft := exec_in_done hp hexec
  · exact digestHeld_of_same hp
  · exact digestHeld_of_same hp
  · exact digestHeld_of_same hp
  · exact .inr ⟨hleft, (exec_INFLIGHT hexec).trans hI⟩

/-- So does a word, decoded or not. -/
theorem execWord_digestHeld {w : CmdWord} (hI : s.INFLIGHT = .idle) (hexec : execWord w s = .next t) :
    DigestHeld s.H t := by
  obtain ⟨code, -, rfl⟩ | ⟨i, -, hexec⟩ := execWord_cases hexec
  · exact digestHeld_of_same hp
  · exact exec_digestHeld hp hI hexec

/-- The only compression in flight in DONE is COMP's, which is one block (R105). -/
theorem InflightOk.comp_of_done {i : Instr} {more : Bool} (hok : InflightOk s)
    (hI : s.INFLIGHT = .rounds i more) : i = .comp ∧ more = false := by
  rw [InflightOk, hI] at hok
  cases i with
  | comp => exact ⟨rfl, hok.2⟩
  | putb _ | final => exact absurd hok.1 (ne_absorb_of_done hp)
  | _ => exact hok.elim

/-- A micro-step in DONE holds the digest: the FOLD edge, which writes H, is COMP's and enters RAW. -/
theorem microMove_in_done (hok : InflightOk s) (hmove : MicroMove s t) : DigestHeld s.H t := by
  cases hmove with
  | idle | fault | start | round => exact digestHeld_of_same hp
  | perform _ hexec => exact exec_digestHeld (s := withInflight .idle s) hp rfl hexec
  | load _ hload => rw [loadBlock_frame hload]; exact digestHeld_of_same hp
  | nextBlock hI => exact absurd (hok.comp_of_done hp hI).2 nofun
  | finish hI =>
    obtain ⟨rfl, -⟩ := hok.comp_of_done hp hI
    exact .inr ⟨by simp [finishCommand], by simp⟩

end InDone

/-- Every micro-step keeps the digest held: once DONE is left nothing is in flight. -/
theorem microMove_digestHeld {h : Vector Word 5} {s t : State} (hinv : EngineInv s)
    (hs : DigestHeld h s) (hmove : MicroMove s t) : DigestHeld h t := by
  obtain ⟨hp, rfl⟩ | ⟨hleft, hI⟩ := hs
  · exact microMove_in_done hp (engineInv_iff.mp hinv).2.2 hmove
  · cases hmove with
    | idle => exact .inr ⟨hleft, hI⟩
    | _ hbusy => exact absurd (hI.symm.trans hbusy) nofun

/-- Every move of the engine in DONE holds the digest. -/
theorem move_digestHeld {s t : State} (hinv : EngineInv s) (hp : s.PHASE = .done) (hmove : Move s t) :
    DigestHeld s.H t := by
  cases hmove with
  | ready => exact digestHeld_of_same hp rfl rfl
  | wait | handOver | accept => exact digestHeld_of_same hp
  | @perform _ rest _ _ hpres hexec =>
    exact execWord_digestHeld (s := takeOff rest s) hp ((canAccept_iff s).mp hpres.1).1 hexec
  | inflight n hmicro =>
    have hkeep := microSteps_keep (P := fun u => EngineInv u ∧ DigestHeld s.H u)
      (fun u v hu hmove => ⟨microMove_engineInv u v hu.1 hmove, microMove_digestHeld hu.1 hu.2 hmove⟩)
      n ⟨hinv, digestHeld_of_same hp⟩ hmicro
    exact hkeep.2

/-- Settles O45: a reset leaves DONE, every other move of a step holds the digest; the commands by what
they do in DONE, PUTB and FINAL by the bar. -/
theorem digestHeldWhileDone : Obligations.DigestHeldWhileDone := by
  refine ⟨fun s t hinv hp hstep ht => ?held, fun i s t hp hexec ht => ?stays,
    fun imm8 s hp => ⟨exec_barred rfl (ne_absorb_of_done hp), exec_barred rfl (ne_absorb_of_done hp)⟩⟩
  case held =>
    obtain ⟨rest, -, rfl⟩ | hmove := step_moves hstep
    · exact absurd ht nofun
    · exact (move_digestHeld hinv hp hmove).H_eq ht
  case stays =>
    obtain ⟨hi, -⟩ | ⟨hi, -⟩ | hfault | hleft := exec_in_done hp hexec
    · exact .inl hi
    · exact .inr (.inl hi)
    · exact .inr (.inr hfault)
    · exact absurd ht hleft

end Sys2Proof.Machine
end

section
/-! The read-out and system commands (R131 to R137): what each read answers on an index in range, and from
it the effect of every word with its opcode. -/

namespace Sys2Proof.Machine

/-! ### The words of format X -/

/-- The words of a format-X command with indices up to `last` (R66). What the command does may need its
index in range. -/
theorem wordEffect_of_decodeX {op : Byte} {last : Nat} {i : Byte → Instr}
    {f : ∀ idx : Byte, idx.toNat ≤ last → State → State}
    (hdec : ∀ idx data, decodeFields op idx data = decodeX last idx data i)
    (hexec : ∀ idx s (h : idx.toNat ≤ last), exec (i idx) s = .next (f idx h s)) :
    WordEffect op fun idx data s =>
      if h : idx.toNat > last ∨ data ≠ 0 then raiseFault .illegalField s
      else f idx (Nat.not_lt.mp fun hlt => h (.inl hlt)) s := by
  intro s idx data rest hpres
  have hword := decode_cmdWord op idx data
  obtain ⟨herror, -⟩ := FieldCheck.ofDecodeX last idx data i
  beta_reduce
  split
  next hbad => exact step_of_decode_error hpres (hword.trans ((hdec idx data).trans (herror hbad)))
  next hok =>
    obtain ⟨hidx, hdata⟩ := not_or.mp hok
    have hle := Nat.not_lt.mp hidx
    rw [step_of_decode_ok hpres (hword.trans ((hdec idx data).trans
      (if_pos ⟨hle, not_not.mp hdata⟩))), hexec idx _ hle]

/-! ### The reads -/

/-- In range the read with a default is the read of the model. -/
theorem getD_eq_getElem {n : Nat} (xs : Vector Word n) (j : Nat) (hj : j < n) :
    xs.getD j 0 = xs[j] := by
  simp [Vector.getD, hj]

section
variable {idx : Byte} (s : State)

/-- RDH on an index in range (R132). -/
theorem exec_rdh (h : idx.toNat ≤ 4) :
    exec (.rdh idx) s = .next { s with RSPD := s.H[idx.toNat], RSPV := true } :=
  exec_read (by rw [responseOf, element_some 5 idx (Nat.lt_succ_of_le h)]; rfl)

/-- RDW on an index in range (R133). -/
theorem exec_rdw (h : idx.toNat ≤ 15) :
    exec (.rdw idx) s = .next { s with RSPD := s.W[idx.toNat], RSPV := true } :=
  exec_read (by rw [responseOf, element_some 16 idx (Nat.lt_succ_of_le h)]; rfl)

/-- RDB on an index in range (R135): 24 zero bits above the byte. -/
theorem exec_rdb (h : idx.toNat ≤ 19) :
    exec (.rdb idx) s =
      .next { s with RSPD := (0 : BitVec 24) ++ digestByte s ⟨idx.toNat, by omega⟩, RSPV := true } := by
  have hzext : (digestByte s ⟨idx.toNat, by omega⟩).setWidth 32
      = (0 : BitVec 24) ++ digestByte s ⟨idx.toNat, by omega⟩ := (dataOfByte_eq_setWidth _).symm
  rw [← hzext]
  exact exec_read (by rw [responseOf, element_some 20 idx (Nat.lt_succ_of_le h)]; rfl)

/-- RDL on an index in range (R136). -/
theorem exec_rdl (h : idx.toNat ≤ 1) :
    exec (.rdl idx) s = .next
      (if idx = 0 then { s with RSPD := s.LEN.extractLsb' 0 32, RSPV := true }
       else { s with RSPD := s.LEN.extractLsb' 32 32, RSPV := true }) := by
  have hlt : idx.toNat < 2 := Nat.lt_succ_of_le h
  have hzero : (⟨idx.toNat, hlt⟩ : Fin 2) = 0 ↔ idx = 0 := by
    rw [Fin.ext_iff, ← BitVec.toNat_inj]; rfl
  have hread : exec (.rdl idx) s = .next (rspPush (readLenHalf s ⟨idx.toNat, hlt⟩) s) :=
    exec_read (by rw [responseOf, element_some 2 idx hlt]; rfl)
  rw [hread, readLenHalf]
  simp only [hzero]
  split <;> rfl

end

/-! ### The obligations -/

/-- Settles O36: format Z over a command that does nothing. -/
theorem nopDoesNothing : Obligations.NopDoesNothing :=
  ⟨by decide, wordEffect_of_decodeZ (f := fun s => s) (fun _ _ => rfl) fun _ => rfl, fun _ => rfl⟩

/-- Settles O37: format X over what RDH answers. -/
theorem rdhRespondsChainingWord : Obligations.RdhRespondsChainingWord :=
  ⟨fun _ => rfl,
    wordEffect_of_decodeX (f := fun idx _ s => { s with RSPD := s.H.getD idx.toNat 0, RSPV := true })
      (fun _ _ => rfl) fun idx s h => by rw [exec_rdh s h, getD_eq_getElem],
    fun _ s => exec_rdh s⟩

/-- Settles O38: format X over what RDW answers. -/
theorem rdwRespondsRingWord : Obligations.RdwRespondsRingWord :=
  ⟨fun _ => rfl,
    wordEffect_of_decodeX (f := fun idx _ s => { s with RSPD := s.W.getD idx.toNat 0, RSPV := true })
      (fun _ _ => rfl) fun idx s h => by rw [exec_rdw s h, getD_eq_getElem],
    fun _ s => exec_rdw s⟩

/-- Settles O40: format X over what RDB answers. -/
theorem rdbRespondsDigestByte : Obligations.RdbRespondsDigestByte :=
  ⟨fun _ => rfl, wordEffect_of_decodeX (fun _ _ => rfl) fun _ s => exec_rdb s, fun _ s => exec_rdb s⟩

/-- Settles O41: format X over what RDL answers for each half. -/
theorem rdlRespondsLengthHalf : Obligations.RdlRespondsLengthHalf :=
  ⟨fun _ => rfl, wordEffect_of_decodeX (fun _ _ => rfl) fun _ s => exec_rdl s,
    fun s => ⟨exec_rdl s (by decide), exec_rdl s (by decide)⟩⟩

/-- Settles O42: format Z over RDST, and STATUS as a number (R25). -/
theorem rdstRespondsStatus : Obligations.RdstRespondsStatus :=
  ⟨by decide, wordEffect_of_decodeZ (fun _ _ => rfl) fun _ => rfl, fun _ => rfl, status_toNat⟩

end Sys2Proof.Machine
end

section
/-! Faults (R148, R154): what raising a fault writes and what it leaves, and that every micro-step, step
and clock edge answers a next state. -/

namespace Sys2Proof.Machine

/-! ### What a fault writes -/

/-- A first fault writes ERR and ECODE alone (R148). -/
theorem raiseFault_first (code : FaultCode) {s : State} (h : s.ERR = false) :
    raiseFault code s = { s with ERR := true, ECODE := some code } := by
  simp [raiseFault, h]

/-- A second fault changes nothing (R148). -/
theorem raiseFault_second (code : FaultCode) {s : State} (h : s.ERR = true) : raiseFault code s = s := by
  ext1 <;> simp [h]

/-- After a fault the engine takes the next command as before it (R148, R154). -/
theorem canAccept_raiseFault (code : FaultCode) (s : State) :
    canAccept (raiseFault code s) = canAccept s := by
  simp [canAccept, idle]

/-- No command clears ERR or changes a recorded code (R148). -/
theorem exec_keeps_record {i : Instr} {s t : State} (hERR : s.ERR = true) (hexec : exec i s = .next t) :
    t.ERR = true ∧ t.ECODE = s.ECODE := by
  obtain ⟨hsame, hcode⟩ | ⟨hnone, -⟩ := RecordFollows.of_exec hexec
  · exact ⟨hsame.trans hERR, hcode⟩
  · simp [hERR] at hnone

/-- Settles O47: a first and a second fault as whole states, and the record under every command. -/
theorem faultEffect : Obligations.FaultEffect :=
  ⟨fun code _ => raiseFault_first code, fun code _ => raiseFault_second code, canAccept_raiseFault,
    fun _ => rfl, fun _ _ _ => exec_keeps_record⟩

/-! ### Nothing stops the engine -/

/-- A micro-step never stops the engine: performing a command that loads no block is the only one that
is not a next state by definition. -/
theorem microStep_total (s : State) : ∃ t, microStep s = .next t := by
  unfold microStep
  split
  next => exact ⟨_, rfl⟩
  next w _ =>
    split
    next => exact ⟨_, rfl⟩
    next i _ =>
      split
      next => exact exec_total i _
      next => exact ⟨_, rfl⟩
  next => exact ⟨_, rfl⟩
  next => split <;> exact ⟨_, rfl⟩

/-- Nor does any number of them. -/
theorem microSteps_total (n : Nat) (s : State) : ∃ t, microSteps n s = .next t := by
  induction n generalizing s with
  | zero => exact ⟨s, rfl⟩
  | succ n ih =>
    obtain ⟨u, hu⟩ := microStep_total s
    rw [microSteps_succ_next hu]
    exact ih u

/-- A step performs a word, completes the command in flight, or answers a next state by definition. -/
theorem step_total (s : State) : ∃ t, step s = .next t := by
  unfold step
  split
  next => exact ⟨_, rfl⟩
  next => exact ⟨_, rfl⟩
  next =>
    split
    next => exact ⟨_, rfl⟩
    next => exact microSteps_total longestCommand s
  next w rest _ =>
    split
    next =>
      split
      next => exact ⟨_, rfl⟩
      next => exact execWord_total w (takeOff rest s)
    next => exact microSteps_total longestCommand s

/-- At a clock edge only a command in flight is performed; the rest is a next state by definition. -/
theorem clockEdge_total (k : Nat) (p : PinsIn) (s : State) : ∃ t, clockEdge k p s = .next t := by
  unfold clockEdge
  split
  next => exact ⟨_, rfl⟩
  split
  next => split <;> exact ⟨_, rfl⟩
  next => exact microSteps_total k s

/-- Settles O50: commands, steps and clock edges each answer a next state. -/
theorem engineNeverStops : Obligations.EngineNeverStops :=
  ⟨exec_total, step_total, clockEdge_total⟩

end Sys2Proof.Machine
end

section
/-! Reset and the handshakes at the pins (R28, R29, R171 to R177): a clock edge by its four cases (a reset,
a waiting response, a word that can be accepted, a command in flight), and what each makes of the inputs. -/

namespace Sys2Proof.Machine

/-! ### The cases of a clock edge -/

theorem cmdReady_iff (rst : Bool) (s : State) :
    cmdReady rst s = true ↔ rst = false ∧ s.INFLIGHT = .idle ∧ s.RSPV = false := by
  rw [cmdReady, Bool.and_eq_true, Bool.not_eq_true', canAccept_iff]

/-- With `cmd_ready` low there is a reset, a command in flight or a waiting response (R29). -/
theorem cmdReady_eq_false_iff (rst : Bool) (s : State) :
    cmdReady rst s = false ↔ rst = true ∨ s.INFLIGHT ≠ .idle ∨ s.RSPV = true := by
  rw [← Bool.not_eq_true, cmdReady_iff, not_and_or, not_and_or, Bool.not_eq_false, Bool.not_eq_false]

section
variable (k : Nat) {p : PinsIn} {s : State}

/-- `rst` wins over everything else (R58, R171). -/
theorem clockEdge_reset (hrst : p.rst = true) : clockEdge k p s = .next (resetEngine s) := by
  rw [clockEdge, if_pos hrst]

/-- A waiting response is handed over or stays (R177). -/
theorem clockEdge_response (hrst : p.rst = false) (hI : s.INFLIGHT = .idle) (hV : s.RSPV = true) :
    clockEdge k p s = .next (if p.rspReady then handOver s else s) := by
  rw [clockEdge, if_neg (by simp [hrst]), if_pos ((idle_iff s).mpr hI), if_pos hV]

/-- With `cmd_ready` high the word presented is accepted (R176). -/
theorem clockEdge_ready (hready : cmdReady p.rst s = true) :
    clockEdge k p s = .next (if p.cmdValid then withInflight (.accepted p.cmdWord) s else s) := by
  obtain ⟨hrst, hI, hV⟩ := (cmdReady_iff p.rst s).mp hready
  rw [clockEdge, if_neg (by simp [hrst]), if_pos ((idle_iff s).mpr hI), if_neg (by simp [hV])]

/-- A command in flight makes its micro-steps (R29). -/
theorem clockEdge_inflight (hrst : p.rst = false) (hI : s.INFLIGHT ≠ .idle) :
    clockEdge k p s = microSteps k s := by
  rw [clockEdge, if_neg (by simp [hrst]), if_neg (mt (idle_iff s).mp hI)]

end

/-! ### Reset -/

/-- Settles O1: the outputs of one state, and an edge at which it can accept a word and none is valid. -/
theorem outputsAfterReset : Obligations.OutputsAfterReset :=
  ⟨by decide, by decide, by decide, by decide, by decide, by decide, by decide,
    fun k _ _ => clockEdge_ready k rfl⟩

/-- Settles O2: the reset case of the edge, and, without `rst`, the fault record that every move keeps. -/
theorem resetEdgeAndStickyFault : Obligations.ResetEdgeAndStickyFault := by
  refine ⟨fun k p s hrst => clockEdge_reset k hrst, fun s => rfl, fun s => ⟨rfl, rfl⟩,
    fun k p s t hrst hERR hedge => ?sticky⟩
  obtain ⟨hreset, -⟩ | hmove := clockEdge_moves hedge
  · simp [hrst] at hreset
  obtain ⟨hsame, hcode⟩ | ⟨hnone, -⟩ := RecordFollows.of_move hmove
  · exact ⟨hsame.trans hERR, hcode⟩
  · simp [hERR] at hnone

/-- Settles O3: at a step and at an edge the reset case comes before the state is looked at. -/
theorem resetTakenInEveryState : Obligations.ResetTakenInEveryState := by
  refine ⟨fun s rest hhost => ?step, fun k s _ _ _ => clockEdge_reset k rfl⟩
  rw [step, hhost]
  rfl

/-! ### The two handshakes -/

/-- With `cmd_ready` low an edge does not look at the command inputs (R176). -/
theorem clockEdge_not_ready (k : Nat) {p : PinsIn} {s : State} (hready : cmdReady p.rst s = false) :
    clockEdge k p s =
      if p.rst then .next (resetEngine s)
      else if idle s then .next (if p.rspReady then handOver s else s)
      else microSteps k s := by
  split
  next hrst => exact clockEdge_reset k hrst
  next hrst =>
    rw [Bool.not_eq_true] at hrst
    split
    next hidle =>
      have hI := (idle_iff s).mp hidle
      have hV : s.RSPV = true := by simpa [cmdReady_eq_false_iff, hrst, hI] using hready
      exact clockEdge_response k hrst hI hV
    next hidle => exact clockEdge_inflight k hrst (mt (idle_iff s).mpr hidle)

/-- Settles O52: with `cmd_ready` high by the accepting case, with it low by an edge that is the same for
all command inputs. -/
theorem commandHandshake : Obligations.CommandHandshake := by
  refine ⟨cmdReady_iff, fun k p s hvalid hready => ?accepted, fun k p s v w hready => ?waits,
    fun k p s hvalid hready => ?nothing⟩
  case accepted => rw [clockEdge_ready k hready, if_pos hvalid]
  case nothing => rw [clockEdge_ready k hready, if_neg (by simp [hvalid])]
  case waits =>
    exact (clockEdge_not_ready k hready).trans
      (clockEdge_not_ready (p := { p with cmdValid := v, cmdWord := w }) k hready).symm

/-- A response that is not taken stays through any number of edges, whatever is presented (R177). -/
theorem edges_response_waits (k : Nat) {ps : List PinsIn} {s : State} (hI : s.INFLIGHT = .idle)
    (hV : s.RSPV = true) (hps : ∀ p ∈ ps, p.rst = false ∧ p.rspReady = false) :
    edges k ps s = .next s := by
  induction ps with
  | nil => rfl
  | cons p ps ih =>
    obtain ⟨⟨hrst, hready⟩, hps⟩ := List.forall_mem_cons.mp hps
    have hedge : clockEdge k p s = .next s := by
      rw [clockEdge_response k hrst hI hV, if_neg (by simp [hready])]
    simp only [edges, hedge, ih hps]

/-- Settles O53: the case of a waiting response, at edges without `rsp_ready` and at one with it. -/
theorem responseBlocksUntilTaken : Obligations.ResponseBlocksUntilTaken := by
  intro s hI hV
  refine ⟨(cmdReady_eq_false_iff false s).mpr (.inr (.inr hV)), by simp [rspValid, hV], rfl,
    fun k ps hps => edges_response_waits k hI hV hps, fun k p hrst hready => ?taken⟩
  rw [clockEdge_response k hrst hI hV, if_pos hready]
  rfl

end Sys2Proof.Machine
end

section
/-! The compressions of a command and the micro-steps it takes (R121, R123, R183): how many compressions
each command has in each phase, how long a word stays in flight, and what the pins show meanwhile (R48,
R180). -/

namespace Sys2Proof.Machine

/-! ### The compressions of each command -/

theorem compressions_of_none {i : Instr} {s : State} (h : loadBlock i s = none) :
    compressions i s = 0 := by
  rw [compressions, h]

theorem compressions_of_some {i : Instr} {s s' : State} {more : Bool}
    (h : loadBlock i s = some (s', more)) : compressions i s = if more then 2 else 1 := by
  rw [compressions, h]
  cases more <;> rfl

/-- FINAL compresses one block or two, by the tail count, in ABSORB alone (R121). -/
theorem compressions_final (s : State) :
    compressions .final s = if s.PHASE = .absorb then if s.N.val ≤ 55 then 1 else 2 else 0 := by
  simp only [compressions, loadBlock, oneFinalBlock, decide_eq_true_eq]
  split_ifs <;> rfl

/-- PUTB compresses the block that it completes (R114). -/
theorem compressions_putb (b : Byte) (s : State) :
    compressions (.putb b) s = if s.PHASE = .absorb ∧ s.N.val = 63 then 1 else 0 := by
  have hN : s.N = 63 ↔ s.N.val = 63 := Fin.ext_iff
  simp only [compressions, loadBlock, hN]
  split_ifs <;> rfl

/-- COMP compresses one block where it is not barred (R105). -/
theorem compressions_comp (s : State) :
    compressions .comp s = if s.PHASE = .absorb then 0 else 1 := by
  simp only [compressions, loadBlock]
  split_ifs <;> rfl

/-- The compressions of a command depend on PHASE and N alone (R123). -/
theorem compressions_congr (i : Instr) {s t : State} (hp : s.PHASE = t.PHASE) (hN : s.N = t.N) :
    compressions i s = compressions i t := by
  cases i with
  | final => simp only [compressions_final, hp, hN]
  | putb b => simp only [compressions_putb, hp, hN]
  | comp => simp only [compressions_comp, hp]
  | _ => rfl

/-- Settles O56: the formula by definition, the compressions command by command. -/
theorem durationOfCommands : Obligations.DurationOfCommands := by
  refine ⟨fun i s => ⟨rfl, ?positive⟩, fun s hp => ?final, fun s hp => ?finalBarred,
    fun b s hp => ?putb, fun b s hp => ?putbBarred, fun s hp => ?comp, fun s hp => ?compBarred,
    fun i s hi => ?others, fun i s t => compressions_congr i⟩
  case positive =>
    rw [commandCycles, Config.cyclesOfCommand, Config.cyclesOther]
    omega
  case final => rw [compressions_final, if_pos hp]
  case finalBarred => rw [compressions_final, if_neg hp]
  case putb => simp only [compressions_putb, hp, true_and]
  case putbBarred => simp only [compressions_putb, hp, false_and, if_false]
  case comp => rw [compressions_comp, if_neg hp]
  case compBarred => rw [compressions_comp, if_pos hp]
  case others =>
    obtain rfl | rfl | ⟨idx, v, rfl⟩ | ⟨idx, v, rfl⟩ | hread := hi
    · rfl
    · rfl
    · rfl
    · rfl
    · cases i with
      | nop | init | putb _ | final | ldh _ _ | ldw _ _ | comp => cases hread
      | _ => rfl

/-! ### How long a word stays in flight -/

theorem busyO_iff (s : State) : busyO s = true ↔ s.INFLIGHT ≠ .idle := by
  rw [busyO, Bool.not_eq_true', ← Bool.not_eq_true, idle_iff]

theorem busyO_eq_false_iff (s : State) : busyO s = false ↔ s.INFLIGHT = .idle := by
  rw [busyO, Bool.not_eq_false', idle_iff]

/-- After any smaller number of micro-steps than `n` the engine is busy. -/
def BusyFor (n : Nat) (s : State) : Prop :=
  ∀ m < n, ∃ t, microSteps m s = .next t ∧ busyO t = true

/-- The command in flight completes with its `n`th micro-step and not before. -/
def CompletesAfter (n : Nat) (s : State) : Prop :=
  BusyFor n s ∧ ∃ t, microSteps n s = .next t ∧ busyO t = false

theorem completesAfter_zero {s : State} (hI : s.INFLIGHT = .idle) : CompletesAfter 0 s :=
  ⟨nofun, s, rfl, (busyO_eq_false_iff s).mpr hI⟩

/-- Micro-steps of a busy engine come on top of those that are still to be made. -/
theorem BusyFor.completesAfter_add {a b : Nat} {s t : State} (hbusy : BusyFor a s)
    (hsteps : microSteps a s = .next t) (ht : CompletesAfter b t) : CompletesAfter (a + b) s := by
  obtain ⟨hbusy', u, hsteps', hu⟩ := ht
  refine ⟨fun m hm => ?_, u, by rw [microSteps_add a b s t hsteps, hsteps'], hu⟩
  rcases Nat.lt_or_ge m a with hlt | hge
  · exact hbusy m hlt
  · obtain ⟨c, rfl⟩ := Nat.exists_eq_add_of_le hge
    rw [microSteps_add a c s t hsteps]
    exact hbusy' c (by omega)

/-- A busy engine is busy at the start of its next micro-step. -/
theorem busyFor_one {s : State} (hI : s.INFLIGHT ≠ .idle) : BusyFor 1 s := fun m hm => by
  obtain rfl : m = 0 := by omega
  exact ⟨s, rfl, (busyO_iff s).mpr hI⟩

/-- A compression keeps the engine busy for 82 micro-steps: START, the ROUNDs and the FOLD edge (R99). -/
theorem busyFor_compression {i : Instr} {more : Bool} {s : State} (hf : s.INFLIGHT = .start i more) :
    BusyFor 82 s := by
  intro m hm
  cases m with
  | zero => exact ⟨s, rfl, (busyO_iff s).mpr (by simp [hf])⟩
  | succ n =>
    rw [Nat.add_comm n 1]
    exact ⟨_, microSteps_start_rounds i more n (by omega) s hf, (busyO_iff _).mpr (by simp)⟩

/-- The last compression of a command completes it after 82 micro-steps. -/
theorem completesAfter_last_compression {i : Instr} {s : State} (hf : s.INFLIGHT = .start i false) :
    CompletesAfter 82 s :=
  (busyFor_compression hf).completesAfter_add (microSteps_last_compression 80 rfl i s hf)
    (completesAfter_zero (withInflight_INFLIGHT _ _))

/-- Two compressions complete a command after twice as many. -/
theorem completesAfter_two_compressions {i : Instr} {s : State} (hf : s.INFLIGHT = .start i true) :
    CompletesAfter (82 + 82) s :=
  (busyFor_compression hf).completesAfter_add (microSteps_first_compression 80 rfl i s hf)
    (completesAfter_last_compression (withInflight_INFLIGHT _ _))

/-- An accepted word is in flight for one micro-step and then for those of the state it leads to. -/
theorem completesAfter_accepted {n : Nat} {s t : State} {w : CmdWord}
    (hstep : microStep (withInflight (.accepted w) s) = .next t) (ht : CompletesAfter n t) :
    CompletesAfter (1 + n) (withInflight (.accepted w) s) :=
  (busyFor_one (by simp)).completesAfter_add (by rw [microSteps_succ_next hstep, microSteps]) ht

section
variable {s : State} {w : CmdWord} (hidle : s.INFLIGHT = .idle)
include hidle

/-- A word that does not decode completes at its first micro-step. -/
theorem completesAfter_error {code : FaultCode} (hdec : decode w = .error code) :
    CompletesAfter 1 (withInflight (.accepted w) s) :=
  completesAfter_accepted (microStep_accepted_error w hidle hdec)
    (completesAfter_zero (by rw [raiseFault_INFLIGHT, hidle]))

/-- A command completes after one micro-step and 82 for each of its compressions (R183). -/
theorem completesAfter_compressions {i : Instr} (hdec : decode w = .ok i) :
    CompletesAfter (1 + 82 * compressions i s) (withInflight (.accepted w) s) := by
  cases hload : loadBlock i s with
  | none =>
    obtain ⟨t, hexec⟩ := exec_total i s
    rw [compressions_of_none hload]
    exact completesAfter_accepted ((microStep_accepted_none w hidle hdec hload).trans hexec)
      (completesAfter_zero ((exec_INFLIGHT hexec).trans hidle))
  | some block =>
    obtain ⟨s', more⟩ := block
    rw [compressions_of_some hload]
    refine completesAfter_accepted (microStep_accepted_some w hdec hload) ?_
    cases more with
    | false => exact completesAfter_last_compression (withInflight_INFLIGHT _ _)
    | true => exact completesAfter_two_compressions (withInflight_INFLIGHT _ _)

end

/-- Settles O55: the first micro-step, then the compressions one by one. -/
theorem commandCompletesInBoundedSteps : Obligations.CommandCompletesInBoundedSteps := by
  refine ⟨fun s w i hacc hdec => completesAfter_compressions ((canAccept_iff s).mp hacc).1 hdec,
    fun s w code hacc hdec => ?error⟩
  obtain ⟨-, hdone⟩ := completesAfter_error ((canAccept_iff s).mp hacc).1 hdec
  exact ⟨(busyO_iff _).mpr (by simp), hdone⟩

/-! ### What the pins show meanwhile -/

theorem doneO_iff (s : State) : doneO s = true ↔ s.PHASE = .done := by
  simp [doneO]

theorem doneO_eq_false_iff (s : State) : doneO s = false ↔ s.PHASE ≠ .done := by
  simp [doneO]

/-- What software and the pins see of the engine beside H and `busy_o` is the same in two states (R48). -/
structure SameVisible (s t : State) : Prop where
  N : t.N = s.N
  LEN : t.LEN = s.LEN
  PHASE : t.PHASE = s.PHASE
  ERR : t.ERR = s.ERR
  ECODE : t.ECODE = s.ECODE
  RSPV : t.RSPV = s.RSPV
  RSPD : t.RSPD = s.RSPD

/-- A micro-step that leaves the engine busy changes nothing visible but H (R48, R180). -/
theorem microMove_sameVisible {s t : State} (hmove : MicroMove s t) (ht : t.INFLIGHT ≠ .idle) :
    SameVisible s t := by
  cases hmove with
  | idle | start | round | nextBlock => constructor <;> simp
  | load _ hload => rw [loadBlock_frame hload]; constructor <;> rfl
  | fault | finish => exact absurd (by simp) ht
  | perform _ hexec => exact absurd (exec_INFLIGHT hexec) ht

/-- A micro-step that leaves the engine busy changes H at a FOLD edge alone (R101, R180). -/
theorem microStep_busy_H {s t : State} (hstep : microStep s = .next t) (ht : t.INFLIGHT ≠ .idle)
    (hH : t.H ≠ s.H) : ∃ i more, s.INFLIGHT = .rounds i more ∧ s.T = 80 := by
  cases microStep_moves hstep with
  | idle | start | round => simp at hH
  | load _ hload => rw [loadBlock_frame hload] at hH; exact absurd rfl hH
  | fault | finish => exact absurd (by simp) ht
  | perform _ hexec => exact absurd (exec_INFLIGHT hexec) ht
  | @nextBlock i _ hI =>
    refine ⟨i, true, hI, by_contra fun hT => hH ?_⟩
    exact microStep_keeps_H ((busyO_iff s).mpr (by simp [hI])) (by simp [hI]) (by omega) hstep

/-- FINAL alone enters DONE (R22). -/
theorem exec_enters_done {i : Instr} {s t : State} (hexec : exec i s = .next t)
    (hs : s.PHASE ≠ .done) (ht : t.PHASE = .done) : i = .final ∧ s.PHASE = .absorb := by
  cases exec_answers hexec with
  | final hp => exact ⟨rfl, hp⟩
  | init | ldh | ldw | comp => simp at ht
  | _ => exact absurd (by simpa using ht) hs

/-- The last FOLD edge of FINAL alone enters DONE (R22, R180). -/
theorem finishCommand_enters_done {i : Instr} {s : State} (hs : s.PHASE ≠ .done)
    (ht : (finishCommand i s).PHASE = .done) : i = .final := by
  cases i with
  | final => rfl
  | comp => simp [finishCommand] at ht
  | _ => exact absurd ht hs

/-- In ABSORB FINAL has a block to compress (R116). -/
theorem loadBlock_final_ne_none {s : State} (hp : s.PHASE = .absorb) : loadBlock .final s ≠ none := by
  intro hload
  have hcount := compressions_of_none hload
  rw [compressions_final, if_pos hp] at hcount
  split at hcount <;> cases hcount

/-- The first micro-step of a word does not enter DONE: the command that does has a compression. -/
theorem microStep_accepted_not_done {s t : State} {w : CmdWord}
    (hstep : microStep (withInflight (.accepted w) s) = .next t) (hI : s.INFLIGHT = .idle)
    (hs : s.PHASE ≠ .done) : t.PHASE ≠ .done := by
  cases hdec : decode w with
  | error code =>
    cases (microStep_accepted_error w hI hdec).symm.trans hstep
    exact hs
  | ok i =>
    cases hload : loadBlock i s with
    | none =>
      intro ht
      obtain ⟨rfl, hp⟩ := exec_enters_done ((microStep_accepted_none w hI hdec hload).symm.trans hstep)
        hs ht
      exact loadBlock_final_ne_none hp hload
    | some block =>
      cases (microStep_accepted_some w hdec hload).symm.trans hstep
      rw [loadBlock_frame hload]
      exact hs

/-- DONE is entered at the last FOLD edge of FINAL, and there alone (R180). -/
theorem microStep_enters_done {s t : State} (hstep : microStep s = .next t) (hs : s.PHASE ≠ .done)
    (ht : t.PHASE = .done) :
    s.INFLIGHT = .rounds .final false ∧ s.T = 80 ∧ t = foldEdge .final false s := by
  cases hI : s.INFLIGHT with
  | idle => simp only [microStep, hI] at hstep; cases hstep; exact absurd ht hs
  | accepted w =>
    rw [← withInflight_eq_self hI, ← withInflight_withInflight _ .idle] at hstep
    exact absurd ht (microStep_accepted_not_done hstep rfl hs)
  | start i more => simp only [microStep, hI] at hstep; cases hstep; exact absurd ht hs
  | rounds i more =>
    by_cases hT : s.T = 80
    · rw [microStep_foldEdge hI hT] at hstep
      cases hstep
      cases more with
      | true => exact absurd ht hs
      | false =>
        obtain rfl := finishCommand_enters_done (s := foldStep s) hs ht
        exact ⟨rfl, hT, rfl⟩
    · rw [microStep_rounds hI (by omega)] at hstep
      cases hstep
      exact absurd (by simpa using ht) hs

/-- Settles O57: micro-steps that leave the engine busy by what they can do, the one that enters DONE by
the FOLD edge it is. -/
theorem pinsWhileBusy : Obligations.PinsWhileBusy := by
  intro s t hbusy hstep
  refine ⟨(cmdReady_eq_false_iff false s).mpr (.inr (.inl ((busyO_iff s).mp hbusy))),
    fun ht => ?stays, fun hs ht => ?done⟩
  case stays =>
    have hI := (busyO_iff t).mp ht
    obtain ⟨hN, hLEN, hPHASE, hERR, hECODE, hRSPV, hRSPD⟩ :=
      microMove_sameVisible (microStep_moves hstep) hI
    exact ⟨hN, hLEN, hPHASE, hERR, hECODE, hRSPV, hRSPD, microStep_busy_H hstep hI⟩
  case done =>
    obtain ⟨hI, hT, rfl⟩ :=
      microStep_enters_done hstep ((doneO_eq_false_iff s).mp hs) ((doneO_iff t).mp ht)
    exact ⟨hI, hT, rfl, rfl⟩

end Sys2Proof.Machine
end

section
/-! The digest despite faults, reads and NOPs (R182): the words of a message one after the other, with the
steps and the responses they bring counted (R177), the message in progress that they leave (R115), and the
fault record as the only sign of those that fault (R154). -/

namespace Sys2Proof.Machine

open Sys2Proof.Laws

/-! ### Words in ABSORB -/

/-- A word that decodes faults in ABSORB exactly when the phase bars its command (R151). -/
theorem faultsInAbsorb_iff_phaseBad {w : CmdWord} {i : Instr} (hdec : decode w = .ok i) :
    faultsInAbsorb w = true ↔ phaseBad (EncodedFields.opcode i) .absorb := by
  rw [faultsInAbsorb, hdec]
  cases i with
  | ldh _ _ | ldw _ _ | comp => exact iff_of_true rfl rfl
  | putb _ | final => exact iff_of_false nofun (absurd rfl)
  | _ => exact iff_of_false nofun id

/-- In ABSORB the word sets ERR when it is one that faults there, and keeps it otherwise (R148). -/
theorem execWord_ERR {w : CmdWord} {s t : State} (hp : s.PHASE = .absorb)
    (hexec : execWord w s = .next t) : t.ERR = (s.ERR || faultsInAbsorb w) := by
  obtain ⟨code, hdec, rfl⟩ | ⟨i, hdec, hexec⟩ := execWord_cases hexec
  · simp [faultsInAbsorb, hdec]
  have hwf := (decode_sound hdec).1
  have hfault := faultsInAbsorb_iff_phaseBad hdec
  rw [← hp] at hfault
  by_cases hbar : phaseBad (EncodedFields.opcode i) s.PHASE
  · cases (exec_barred hwf hbar).symm.trans hexec
    simp [hfault.mpr hbar]
  · obtain ⟨u, hu, hERR, -⟩ := exec_accepted hwf hbar
    cases hu.symm.trans hexec
    rw [hERR, Bool.eq_false_of_not_eq_true (mt hfault.mp hbar), Bool.or_false]

/-! ### Runs of words, counted -/

theorem responseCount_append (us ws : List CmdWord) :
    responseCount (us ++ ws) = responseCount us + responseCount ws := by
  simp [responseCount]

@[simp] theorem emptied_ERR (s : State) : (emptied s).ERR = s.ERR := by
  unfold emptied; split <;> rfl

/-- A response that waits is received (R177). -/
theorem emptied_received_length (s : State) :
    (emptied s).received.length = s.received.length + waitingSteps s := by
  unfold emptied waitingSteps
  split <;> simp

/-- A word leaves the words already received as they are. -/
theorem execWord_received {w : CmdWord} {s t : State} (h : execWord w s = .next t) :
    t.received = s.received := by
  obtain ⟨code, -, rfl⟩ | ⟨i, -, hexec⟩ := execWord_cases h
  · exact raiseFault_received code s
  · exact (exec_host hexec).2.2

/-- The run from `s` to `t` performs the words `ws`: one step for each and one for each response handed
over, which is every response but one that still waits in `t` (R177). -/
structure RunsWords (ws : List CmdWord) (s t : State) : Prop where
  run : ∃ n, run n s = .next t ∧ n + waitingSteps t = waitingSteps s + ws.length + responseCount ws
  received : t.received.length + waitingSteps t
    = s.received.length + waitingSteps s + responseCount ws

theorem RunsWords.append {us ws : List CmdWord} {s u t : State} (h : RunsWords us s u)
    (h' : RunsWords ws u t) : RunsWords (us ++ ws) s t := by
  obtain ⟨⟨m, hrun, hm⟩, hrec⟩ := h
  obtain ⟨⟨n, hrun', hn⟩, hrec'⟩ := h'
  constructor
  · refine ⟨m + n, (run_add m n s u hrun).trans hrun', ?_⟩
    rw [responseCount_append, List.length_append]
    omega
  · rw [responseCount_append]
    omega

/-- The host's next word, after the hand-over of a response that waits. -/
theorem runsWords_one {s : State} {w : CmdWord} {rest : List HostAct}
    (hhost : s.host = .command w :: rest) (hidle : idle s = true) (htaken : responsesTaken s = true) :
    ∃ t, RunsWords [w] s t ∧ execWord w (takeOff rest (emptied s)) = .next t ∧ idle t = true ∧
      t.host = rest ∧ t.rspReady = s.rspReady ∧ t.RSPV = responds w := by
  obtain ⟨t, hrun, hexec, hidle', hhost', hready, hrsp⟩ := run_word hhost hidle htaken
  have hwait : waitingSteps t = responseCount [w] := by
    rw [waitingSteps_of_responds hrsp, responseCount_cons, responseCount_nil, Nat.add_zero]
  have hreceived : t.received.length = s.received.length + waitingSteps s := by
    rw [execWord_received hexec, takeOff_received, emptied_received_length]
  exact ⟨t, ⟨⟨_, hrun, by rw [hwait]; rfl⟩, by rw [hwait, hreceived]⟩, hexec, hidle', hhost',
    hready, hrsp⟩

/-! ### The words of a message -/

/-- The host takes responses, or none waits and the words `ws` bring none. -/
def ResponsesFlow (ws : List CmdWord) (s : State) : Prop :=
  s.rspReady = true ∨ (s.RSPV = false ∧ ∀ w ∈ ws, responds w = false)

theorem ResponsesFlow.taken {ws : List CmdWord} {s : State} (h : ResponsesFlow ws s) :
    responsesTaken s = true := by
  obtain h | ⟨h, -⟩ := h <;> simp [responsesTaken, h]

/-- After the first of the words the same holds of the others. -/
theorem ResponsesFlow.tail {w : CmdWord} {ws : List CmdWord} {s t : State}
    (h : ResponsesFlow (w :: ws) s) (hready : t.rspReady = s.rspReady) (hrsp : t.RSPV = responds w) :
    ResponsesFlow ws t := by
  rw [ResponsesFlow, List.forall_mem_cons] at h
  obtain h | ⟨-, hw, hws⟩ := h
  · exact .inl (hready.trans h)
  · exact .inr ⟨hrsp.trans hw, hws⟩

/-- INIT starts the empty message and keeps the fault record (R112). -/
theorem runsWords_init {ws : List CmdWord} {s : State} {rest : List HostAct}
    (hhost : s.host = .command (encode .init) :: rest) (hidle : idle s = true)
    (hflow : ResponsesFlow ws s) :
    ∃ t, RunsWords [encode .init] s t ∧ Absorbing [] t ∧ t.ERR = s.ERR ∧ idle t = true ∧
      t.host = rest ∧ ResponsesFlow ws t := by
  obtain ⟨t, hrun, hexec, hidle', hhost', hready, hrsp⟩ := runsWords_one hhost hidle hflow.taken
  obtain ⟨u, hinit, hm, hkeep⟩ := exec_init_absorbing (takeOff rest (emptied s))
  rw [execWord_of_decode_ok decode_encode_init] at hexec
  cases hinit.symm.trans hexec
  exact ⟨t, hrun, hm, by simpa using hkeep.ERR, hidle', hhost',
    hflow.imp hready.trans fun ⟨_, hws⟩ => ⟨hrsp.trans (by decide), hws⟩⟩

/-- The words inside a message append their bytes, and ERR tells whether one of them faults (R182). -/
theorem runsWords_insideMessage (ws : List CmdWord) {m : List Byte} {s : State} {rest : List HostAct}
    (hm : Absorbing m s) (hidle : idle s = true) (hhost : s.host = ws.map .command ++ rest)
    (hin : ∀ w ∈ ws, insideMessage w) (hflow : ResponsesFlow ws s) :
    ∃ t, RunsWords ws s t ∧ Absorbing (m ++ absorbed ws) t ∧
      t.ERR = (s.ERR || ws.any faultsInAbsorb) ∧ idle t = true ∧ t.host = rest ∧
      responsesTaken t = true := by
  induction ws generalizing m s with
  | nil =>
    exact ⟨s, ⟨⟨0, rfl, by simp⟩, by simp⟩, by simpa using hm, by simp, hidle, hhost, hflow.taken⟩
  | cons w ws ih =>
    obtain ⟨hw, hws⟩ := List.forall_mem_cons.mp hin
    obtain ⟨u, hrun, hexec, hidle', hhost', hready, hrsp⟩ := runsWords_one hhost hidle hflow.taken
    have hm' := hm.of_keeps (takeOff_emptied_keepsMessage (ws.map .command ++ rest) s)
    have hERR := execWord_ERR hm'.1 hexec
    obtain ⟨t, hrun', hmt, hERR', hidle'', hhost'', htaken⟩ :=
      ih (hm'.of_execWord hw hexec) hidle' hhost' hws (hflow.tail hready hrsp)
    refine ⟨t, hrun.append hrun', ?message, ?record, hidle'', hhost'', htaken⟩
    case message => rwa [List.append_assoc, ← absorbed_append] at hmt
    case record => rw [hERR', hERR, List.any_cons, takeOff_ERR, emptied_ERR, Bool.or_assoc]

/-- FINAL turns the message in progress into its digest (R116). -/
theorem runsWords_final {m : List Byte} {s : State} {rest : List HostAct} (hm : Absorbing m s)
    (hhost : s.host = .command (encode .final) :: rest) (hidle : idle s = true)
    (htaken : responsesTaken s = true) :
    ∃ t, RunsWords [encode .final] s t ∧ t.PHASE = .done ∧ t.H = digest m ∧ t.LEN = s.LEN ∧
      t.ERR = s.ERR ∧ waitingSteps t = 0 := by
  obtain ⟨t, hrun, hexec, -, -, -, hrsp⟩ := runsWords_one hhost hidle htaken
  have hkeepm := takeOff_emptied_keepsMessage rest s
  obtain ⟨u, hfinal, hphase, hH, hlen, hkeep⟩ := (hm.of_keeps hkeepm).exec_final
  rw [execWord_of_decode_ok decode_encode_final] at hexec
  cases hfinal.symm.trans hexec
  exact ⟨t, hrun, hphase, hH, hlen.trans hkeepm.LEN, by simpa using hkeep.ERR,
    (waitingSteps_of_responds hrsp).trans (by decide)⟩

/-- INIT and FINAL are two words more. -/
theorem length_message (ws : List CmdWord) :
    ([encode .init] ++ ws ++ [encode .final]).length = ws.length + 2 := by
  simp

/-- INIT and FINAL bring no response. -/
theorem responseCount_message (ws : List CmdWord) :
    responseCount ([encode .init] ++ ws ++ [encode .final]) = responseCount ws := by
  have hinit : responseCount [encode .init] = 0 := by decide
  have hfinal : responseCount [encode .final] = 0 := by decide
  rw [responseCount_append, responseCount_append, hinit, hfinal, Nat.zero_add, Nat.add_zero]

/-- Settles O34: INIT, the words inside the message and FINAL one after the other, the steps and the
responses counted over all of them. -/
theorem digestDespiteFaults : Obligations.DigestDespiteFaults := by
  intro ws s hlength hidle hin hflow
  obtain ⟨u, hinit, hmu, hERRu, hidleu, hhostu, hflowu⟩ := runsWords_init
    (s := takeOff ((encode .init :: ws ++ [encode .final]).map .command ++ s.host) s)
    (rest := ws.map .command ++ .command (encode .final) :: s.host) (ws := ws)
    (by simp) hidle hflow
  obtain ⟨v, hinside, hmv, hERRv, hidlev, hhostv, htakenv⟩ :=
    runsWords_insideMessage ws hmu hidleu hhostu hin hflowu
  rw [List.nil_append] at hmv
  obtain ⟨t, hfinal, hphase, hH, hLEN, hERRt, hwait⟩ := runsWords_final hmv hhostv hidlev htakenv
  obtain ⟨⟨n, hrun, hn⟩, hreceived⟩ := (hinit.append hinside).append hfinal
  rw [responseCount_message, hwait, Nat.add_zero] at hn hreceived
  rw [length_message] at hn
  subst hn
  refine ⟨t, hrun, hphase, hH, ?length, ?record, hreceived⟩
  case length =>
    rw [hLEN, hmv.LEN_eq, BitVec.toNat_ofNat]
    omega
  case record => rw [hERRt, hERRv, hERRu, takeOff_ERR]

end Sys2Proof.Machine
end
